-- ==== Sys2Proof/Word.lean ====
section
/-! DEFINITION. The words of the block: a byte (the host data path, R19) and a halfword (a 16-bit register or a host
address, R19 and R31). Every value is unsigned (R25). -/
namespace Sys2Proof

/-- One byte (R26). -/
abbrev Byte := BitVec 8

/-- Sixteen bits: a 16-bit register (R31), a CRC value (R180). -/
abbrev Half := BitVec 16

/-- A host address (R19, R80). -/
abbrev Addr := BitVec 16

end Sys2Proof
end

