-- ==== Sys2Proof/Syntax.lean ====
section
/-! DEFINITION. The commands: one constructor per row of spec/opcode_table.json (R111). No operand is encoded in the
command byte (R114). The four rows named ILLEGAL are classes of CMD values, so their constructors carry the CMD value
that was written (log entry 14); WellFormed.lean says which values each row admits. -/
namespace Sys2Proof

/-- The rows of the opcode table, in the table's order. -/
inductive Instr where
  /-- NOP, CMD 0x00 (R300). -/
  | nop
  /-- STUFF, CMD 0x01 (R153). -/
  | stuff
  /-- DESTUFF, CMD 0x02 (R154). -/
  | destuff
  /-- FCSGEN, CMD 0x03 (R185). -/
  | fcsgen
  /-- FCSCHK, CMD 0x04 (R186). -/
  | fcschk
  /-- AENC, CMD 0x05 (R203). -/
  | aenc
  /-- ADEC, CMD 0x06 (R206). -/
  | adec
  /-- ASM, CMD 0x07 (R228). -/
  | asm
  /-- PARSE, CMD 0x08 (R265). -/
  | parse
  /-- INCVS, CMD 0x09 (R291). -/
  | incvs
  /-- INCVR, CMD 0x0A (R292). -/
  | incvr
  /-- SRST, CMD 0x0F (R301). -/
  | srst
  /-- RESERVED_0B, CMD 0x0B (R302). -/
  | reserved0b
  /-- RESERVED_0C, CMD 0x0C (R302). -/
  | reserved0c
  /-- RESERVED_0D, CMD 0x0D (R302). -/
  | reserved0d
  /-- RESERVED_0E, CMD 0x0E (R302). -/
  | reserved0e
  /-- ILLEGAL, CMD 1xxxxxxx (R302). -/
  | illegal80 (cmd : Byte)
  /-- ILLEGAL, CMD 01xxxxxx (R302). -/
  | illegal40 (cmd : Byte)
  /-- ILLEGAL, CMD 001xxxxx (R302). -/
  | illegal20 (cmd : Byte)
  /-- ILLEGAL, CMD 0001xxxx (R302). -/
  | illegal10 (cmd : Byte)
deriving DecidableEq, Repr

/-- The twelve commands of R111, as opposed to the reserved and illegal CMD values, which "are not commands" (R302). -/
def Instr.isCommand : Instr → Bool
  | .nop | .stuff | .destuff | .fcsgen | .fcschk | .aenc | .adec | .asm | .parse | .incvs | .incvr | .srst => true
  | .reserved0b | .reserved0c | .reserved0d | .reserved0e => false
  | .illegal80 _ | .illegal40 _ | .illegal20 _ | .illegal10 _ => false

end Sys2Proof
end

