-- ==== Sys2Proof/WellFormed.lean ====
section
/-! DEFINITION. Which terms of Instr stand for a CMD value: the value an ILLEGAL row carries must match that row's mask
and match of spec/opcode_table.json (R111, R113). Every other constructor has no operand and is always well-formed. -/
namespace Sys2Proof

/-- A CMD value matches a table row: the bits the mask selects are the row's match. -/
def matchesRow (mask pattern cmd : Byte) : Bool := cmd &&& mask == pattern

/-- The instruction stands for some CMD value of its table row. -/
def Instr.wf : Instr → Bool
  | .illegal80 cmd => matchesRow 0x80 0x80 cmd
  | .illegal40 cmd => matchesRow 0xC0 0x40 cmd
  | .illegal20 cmd => matchesRow 0xE0 0x20 cmd
  | .illegal10 cmd => matchesRow 0xF0 0x10 cmd
  | .nop | .stuff | .destuff | .fcsgen | .fcschk | .aenc | .adec | .asm | .parse | .incvs | .incvr | .srst
  | .reserved0b | .reserved0c | .reserved0d | .reserved0e => true

end Sys2Proof
end

