-- ==== Sys2Proof/Decode.lean ====
section
/-! DEFINITION. The decoder of R112, total on every byte string, and the encoder, both written from the opcode map of
R111. Every CMD value has a row, so the only input the decoder rejects is the empty one. -/
namespace Sys2Proof

/-- Why the decoder gives no instruction. -/
inductive DecodeReject where
  /-- There is no command byte: a command is exactly one byte (R110). -/
  | noCommandByte
deriving DecidableEq, Repr

/-- R110: the OP field, CMD[3:0]. -/
def opField (cmd : Byte) : BitVec 4 := cmd.extractLsb' 0 4

/-- R110: the must-be-zero field, CMD[7:4]. -/
def mbzField (cmd : Byte) : BitVec 4 := cmd.extractLsb' 4 4

/-- R111: the row of each OP value when CMD[7:4] = 0. -/
def decodeOp (op : BitVec 4) : Instr :=
  match op.toNat with
  | 0x0 => .nop
  | 0x1 => .stuff
  | 0x2 => .destuff
  | 0x3 => .fcsgen
  | 0x4 => .fcschk
  | 0x5 => .aenc
  | 0x6 => .adec
  | 0x7 => .asm
  | 0x8 => .parse
  | 0x9 => .incvs
  | 0xA => .incvr
  | 0xB => .reserved0b
  | 0xC => .reserved0c
  | 0xD => .reserved0d
  | 0xE => .reserved0e
  | _ => .srst

/-- R112, R113: a CMD value with CMD[7:4] ≠ 0 is illegal, and its highest set bit of CMD[7:4] names its table row. -/
def decodeIllegal (cmd : Byte) : Instr :=
  if cmd.getLsbD 7 then .illegal80 cmd
  else if cmd.getLsbD 6 then .illegal40 cmd
  else if cmd.getLsbD 5 then .illegal20 cmd
  else .illegal10 cmd

/-- R112: what one CMD value stands for. -/
def decodeByte (cmd : Byte) : Instr :=
  if mbzField cmd = 0 then decodeOp (opField cmd) else decodeIllegal cmd

/-- The decoder: one command byte and the bytes after it. -/
def decode : List Byte → Except DecodeReject (Instr × List Byte)
  | [] => .error .noCommandByte
  | cmd :: rest => .ok (decodeByte cmd, rest)

/-- R111: the CMD value of each row; an ILLEGAL row's is the value it carries. -/
def encodeByte : Instr → Byte
  | .nop => 0x00
  | .stuff => 0x01
  | .destuff => 0x02
  | .fcsgen => 0x03
  | .fcschk => 0x04
  | .aenc => 0x05
  | .adec => 0x06
  | .asm => 0x07
  | .parse => 0x08
  | .incvs => 0x09
  | .incvr => 0x0A
  | .srst => 0x0F
  | .reserved0b => 0x0B
  | .reserved0c => 0x0C
  | .reserved0d => 0x0D
  | .reserved0e => 0x0E
  | .illegal80 cmd => cmd
  | .illegal40 cmd => cmd
  | .illegal20 cmd => cmd
  | .illegal10 cmd => cmd

/-- R110: every command is exactly one byte long. -/
def encode (i : Instr) : List Byte := [encodeByte i]

/-- The bytes of an instruction of `nbits` bits numbered as spec/opcode_table.json numbers them, the first byte first. -/
def tableBytes : Nat → Nat → List Byte
  | 0, _ => []
  | n + 1, w => BitVec.ofNat 8 w :: tableBytes n (w / 256)

/-- The instruction the decoder reads from an instruction whose bits are `w`, `nbits` of them; none where it rejects or
where bytes are left over (no command is longer than one byte, R110). -/
def decodeTableWord (nbits w : Nat) : Option Instr :=
  match decode (tableBytes ((nbits + 7) / 8) (w % 2 ^ nbits)) with
  | .ok (i, []) => some i
  | .ok (_, _ :: _) => none
  | .error _ => none

end Sys2Proof
end

