-- ==== Sys2Proof/Config.lean ====
section
/-! DEFINITION. The implementation parameters of 00_scope.md section 3. Every one has a fixed value: the spec leaves
none open, so this file holds no free value. -/
namespace Sys2Proof.Config

/-- R10: the address-field length in bytes. -/
@[simp] def ALEN : Nat := 14

/-- R11: the control-field length in bytes of I and S frames (a U frame has one byte). -/
@[simp] def CLEN : Nat := 2

/-- R12: the information-field length in bytes. -/
@[simp] def INFO_CAP : Nat := 255

/-- R13: the logical length in bytes of a supervisory frame (18). -/
@[simp] def S_LEN : Nat := ALEN + CLEN + 2

/-- R14: the logical length in bytes of an information frame (274). -/
@[simp] def I_LEN : Nat := ALEN + CLEN + 1 + INFO_CAP + 2

/-- R15: the logical length in bytes of a UI frame (273). -/
@[simp] def UI_LEN : Nat := ALEN + 1 + 1 + INFO_CAP + 2

/-- R16: the capacity in bytes of LOG (274). -/
@[simp] def LOG_CAP : Nat := I_LEN

/-- R17: the capacity in bytes of RAW. -/
@[simp] def RAW_CAP : Nat := 331

/-- R20: the largest call-sign length in characters. -/
@[simp] def MAX_CALL : Nat := 6

/-- R21: the largest bit count DESTUFF accepts (2648). -/
@[simp] def RAW_BITS_CAP : Nat := 8 * RAW_CAP

/-- R22: the flag byte. -/
@[simp] def FLAG : Byte := 0x7E

/-- R23: the protocol identifier "no layer 3". -/
@[simp] def PID_NOL3 : Byte := 0xF0

/-- R24: the character that pads short call-signs. -/
@[simp] def SPACE : Byte := 0x20

end Sys2Proof.Config
end

