-- ==== Sys2Proof/Machine/State.lean ====
section
/-! DEFINITION. The state of the block (10_state.md R30), all of it plain data: the host register file (R31) with the
link-state counters (R36), the three byte buffers (R47), the command in flight (R48) and the RST input level (R340);
beside them, as the model's own fields, the inputs the outside world has still to present and the byte the last host
read returned. IRQ is a function of the register file (R315, Flags.lean). -/
namespace Sys2Proof.Machine

/-- R43: a station-address group, TX_DEST, TX_SRC or LOCAL. -/
structure Station where
  /-- `_LEN`, the call-sign length; any value may be held, a command that reads it wants 0..6. -/
  len : Byte
  /-- `_SSID`, the whole SSID octet (90_conflicts.md C5). -/
  ssid : Byte
  /-- `_CALL[0..5]`, the call-sign characters. -/
  call : Vector Byte 6
deriving DecidableEq, Repr

/-- R46: one decoded station, DEC_DEST or DEC_SRC. -/
structure Decoded where
  /-- `_LEN`, 0..6. -/
  len : Byte
  /-- `_SSID`, the octet as received. -/
  ssid : Byte
  /-- `_EXT` bit 0, the extension bit; bits 7:1 read 0. -/
  ext : Bool
  /-- `_CALL[0..5]`, the decoded characters. -/
  call : Vector Byte 6
deriving DecidableEq, Repr

/-- R31: the host register file. A field has the width of the register's non-reserved bits; reserved bits read 0
(R83). CMD holds nothing (R84) and STATUS.BUSY is `State.inFlight` (R48). -/
structure Regs where
  /-- STATUS bit 1, DONE (R33). -/
  done : Bool
  /-- STATUS bit 2, OVR (R33). -/
  ovr : Bool
  /-- RESULT: CODE in bits 3:0, DETAIL in bits 7:4 (R34). -/
  result : Byte
  /-- IRQ_EN bit 0, DONE_IE (R35). -/
  doneIe : Bool
  /-- VS, the send-sequence counter (R36). -/
  vs : BitVec 7
  /-- VR, the receive-sequence counter (R36). -/
  vr : BitVec 7
  /-- INFO_LEN (R37). -/
  infoLen : Half
  /-- LOG_LEN (R37). -/
  logLen : Half
  /-- RAW_LEN (R37). -/
  rawLen : Half
  /-- RAW_BITS (R37). -/
  rawBits : Half
  /-- DSTF_TAIL bits 2:0 (R38). -/
  dstfTail : BitVec 3
  /-- FCS, in the transmitted (bit-reversed) form (R39). -/
  fcs : Half
  /-- FCS_CALC, in the same form (R39). -/
  fcsCalc : Half
  /-- TXCTL bits 5:0: FTYPE 2:0, PF 3, CLEN 5:4 (R40); bits 7:6 read 0 (R41). -/
  txctl : BitVec 6
  /-- TX_ALEN (R42). -/
  txAlen : Byte
  /-- The TX_DEST group (R43). -/
  txDest : Station
  /-- The TX_SRC group (R43). -/
  txSrc : Station
  /-- The LOCAL group (R43). -/
  localStn : Station
  /-- ADDR[0..13], the last encoded address field (R44). -/
  addr : Vector Byte 14
  /-- RX_KIND bits 1:0: 0 none, 1 I, 2 S (R45). -/
  rxKind : BitVec 2
  /-- RX_NS bits 6:0 (R45). -/
  rxNs : BitVec 7
  /-- RX_NR bits 6:0 (R45). -/
  rxNr : BitVec 7
  /-- RX_PF bit 0 (R45). -/
  rxPf : Bool
  /-- RX_SCODE bits 1:0 (R45). -/
  rxScode : BitVec 2
  /-- RX_CTRL0 (R45). -/
  rxCtrl0 : Byte
  /-- RX_CTRL1 (R45). -/
  rxCtrl1 : Byte
  /-- RX_PID (R45). -/
  rxPid : Byte
  /-- The DEC_DEST registers (R46). -/
  decDest : Decoded
  /-- The DEC_SRC registers (R46). -/
  decSrc : Decoded
deriving DecidableEq, Repr

/-- A station-address group at reset: every byte 0 (R43). -/
def Station.reset : Station := ⟨0, 0, #v[0, 0, 0, 0, 0, 0]⟩

/-- A decoded station at reset: every byte 0 (R46). -/
def Decoded.reset : Decoded := ⟨0, 0, false, #v[0, 0, 0, 0, 0, 0]⟩

/-- R341: the register file after any reset: TXCTL = 0x20, TX_ALEN = 0x0E, every other register 0. -/
def Regs.reset : Regs where
  done := false
  ovr := false
  result := 0
  doneIe := false
  vs := 0
  vr := 0
  infoLen := 0
  logLen := 0
  rawLen := 0
  rawBits := 0
  dstfTail := 0
  fcs := 0
  fcsCalc := 0
  txctl := 0x20
  txAlen := 0x0E
  txDest := Station.reset
  txSrc := Station.reset
  localStn := Station.reset
  addr := #v[0, 0, 0, 0, 0, 0, 0, 0, 0, 0, 0, 0, 0, 0]
  rxKind := 0
  rxNs := 0
  rxNr := 0
  rxPf := false
  rxScode := 0
  rxCtrl0 := 0
  rxCtrl1 := 0
  rxPid := 0
  decDest := Decoded.reset
  decSrc := Decoded.reset

/-- R47: the three byte buffers. -/
inductive Buf where
  | info
  | raw
  | log
deriving DecidableEq, Repr

/-- The written buffer bytes, by host address (R81), strictly rising. An unlisted byte is unwritten (R47). -/
abbrev Memory := List Host.Cell

/-- What the outside world does to the block, in the one total order of R92 (log entry 1). -/
inductive Input where
  /-- The host reads one byte, `MemRead(a, 1)` (R80). -/
  | read (a : Addr)
  /-- The host writes one byte, `MemWrite(a, 1, v)` (R80). A write to CMD of an idle block runs its command in the
  same step (R48, R94). -/
  | write (a : Addr) (v : Byte)
  /-- The host writes CMD, and the command it starts is still in flight at the next input: the timing a host that does
  not wait (R345) can meet, and the only way BUSY = 1 is seen by a host access (R346, R347; DEDUCED, log entry 4). -/
  | issue (v : Byte)
  /-- The engine completes the command in flight (R349: every started command completes). -/
  | complete
  /-- The RST input takes this level (R340). -/
  | rst (level : Bool)
  /-- Power-on, the other hard reset (R340; log entry 9). -/
  | powerOn
deriving DecidableEq, Repr

/-- The state of the block. -/
structure State where
  /-- The host register file (R31). -/
  regs : Regs
  /-- The written bytes of INFO, RAW and LOG (R47). -/
  mem : Memory
  /-- The command in flight; BUSY is 1 exactly when there is one (R48). Its operand values are the registers and
  buffers themselves, which cannot change while it is in flight (R95, R347). -/
  inFlight : Option Instr
  /-- The level of the RST input (R340). -/
  rst : Bool
  /-- MODEL'S OWN (log entry 1): the inputs still to come, oldest first. -/
  inputs : List Input
  /-- MODEL'S OWN (log entry 2): the byte the last host read returned; none when the last input was no read. -/
  response : Option Byte
deriving DecidableEq, Repr

/-- R341, R342: the block right after power-on: registers at their reset values, every buffer byte unwritten, no command
in flight, RST low (log entry 3), no input pending (log entry 1). -/
def State.reset : State where
  regs := Regs.reset
  mem := []
  inFlight := none
  rst := false
  inputs := []
  response := none

/-- Why a step stops. Both are the spec's own faults, properties of the model (R320). -/
inductive Fault where
  /-- A command's or the host's read of a buffer byte that nothing has written since the last hard reset (R47, R91),
  at this host address. Raised by `State.bufRead` (log entry 11). Safe: the hardware returns some value, and nothing is claimed of it. -/
  | unwrittenRead (address : Nat)
  /-- A host access to this address while BUSY = 1, other than a read of STATUS or a write of CMD (R347). Raised by
  `busyInput` (log entry 12). Safe: the block does not define the access's effect, and nothing is claimed of it. -/
  | busyHazard (address : Nat)
deriving DecidableEq, Repr

/-- Why an instruction has no meaning. Every instruction has one, so no meaning raises this. -/
inductive Refusal where
  /-- The instruction is not modelled yet; only exec's refused arms answer it. Safe. -/
  | notModelled (mnemonic : String)
deriving DecidableEq, Repr

/-- The outcome of a step of this machine. -/
abbrev Outcome := Host.Outcome State Fault Refusal

/-- R310, R311: how a command completes, one constructor per CODE and DETAIL the block writes. -/
inductive Completion where
  | ok
  | illegalCmd
  | lenRange
  | nullInput
  | callLen
  | ftype
  | clen
  | alen
  | shortAddr
  | noStartFlag
  | noEndFlag
  | overflow
  | badLength
  | notIControl
  | integrityError
  | addressMismatch
  | protocolIdError
  | unknownSupervisoryCode
  | sequenceMismatch
deriving DecidableEq, Repr

/-- R115: the frame types ASM builds. -/
inductive FrameType where
  /-- I, FTYPE 0. -/
  | info
  /-- S, FTYPE 1..4, with its supervisory code SS = FTYPE - 1. -/
  | sup (ss : BitVec 2)
  /-- UI, FTYPE 5. -/
  | ui
deriving DecidableEq, Repr

/-- The names of the host registers (R31). -/
inductive Reg where
  | cmd | status | result | irqEn | vs | vr
  | infoLen | logLen | rawLen | rawBits | dstfTail | fcs | fcsCalc
  | txctl | txAlen | txDestLen | txDestSsid | txDestCall | txSrcLen | txSrcSsid | txSrcCall
  | localLen | localSsid | localCall | addr
  | rxKind | rxNs | rxNr | rxPf | rxScode | rxCtrl0 | rxCtrl1 | rxPid
  | decDestLen | decDestSsid | decDestExt | decDestCall | decSrcLen | decSrcSsid | decSrcExt | decSrcCall
deriving DecidableEq, Repr

/-- R31: the access codes. STATUS is mixed: BUSY is RO, DONE and OVR are W1C. -/
inductive Access where
  | rw
  | ro
  | wo
  | w1c
deriving DecidableEq, Repr

/-- One row of the table of R31: the register, its first address, its number of bytes, its access code. -/
structure RegRow where
  name : Reg
  base : Nat
  size : Nat
  access : Access
deriving DecidableEq, Repr

/-- R81: what stands at a host address. -/
inductive Place where
  /-- Byte `k` of a register. -/
  | reg (row : RegRow) (k : Nat)
  /-- Byte `i` of a buffer. -/
  | buf (b : Buf) (i : Nat)
  /-- Nothing: reads 0, ignores writes (R83). -/
  | reserved
deriving DecidableEq, Repr

end Sys2Proof.Machine
end

