-- ==== Sys2Proof/Machine/Operands.lean ====
section
/-! DEFINITION. The operand forms of the commands: halves of a 16-bit register (R85), bit reversal (R25), the
serialisation between bytes and bits (R86), the fields of TXCTL (R115) and the frame types they name. -/
namespace Sys2Proof.Machine

/-- R25: `lo8(w) = w[7:0]`. -/
def lo8 (w : Half) : Byte := w.extractLsb' 0 8

/-- R25: `hi8(w) = w[15:8]`. -/
def hi8 (w : Half) : Byte := w.extractLsb' 8 8

/-- The 16-bit value with these bytes, low byte first (R85, R184). -/
def ofBytes (lo hi : Byte) : Half := hi ++ lo

/-- R85: byte `k` of a 16-bit register: bits 7:0 at its first address, bits 15:8 at the next. -/
def byteOf (w : Half) (k : Nat) : Byte := if k = 0 then lo8 w else hi8 w

/-- R85, R88: writing byte `k` of a 16-bit register leaves its other byte. -/
def setByteOf (w : Half) (k : Nat) (v : Byte) : Half := if k = 0 then ofBytes v (hi8 w) else ofBytes (lo8 w) v

/-- R25: `rev16(w)[i] = w[15-i]`. -/
def rev16 (w : Half) : Half := w.reverse

/-- One bit as a byte, the other bits 0. -/
def bitByte (b : Bool) : Byte := (BitVec.ofBool b).setWidth 8

/-- R86: the bits of one byte, least-significant first. -/
def byteBits (b : Byte) : List Bool :=
  [b.getLsbD 0, b.getLsbD 1, b.getLsbD 2, b.getLsbD 3, b.getLsbD 4, b.getLsbD 5, b.getLsbD 6, b.getLsbD 7]

/-- R86: `bits(s)`, each byte least-significant bit first. -/
def bits (s : List Byte) : List Bool := s.flatMap byteBits

/-- The number whose bits these are, the first the least significant. -/
def bitsToNat : List Bool → Nat
  | [] => 0
  | b :: q => b.toNat + 2 * bitsToNat q

/-- The byte with these bits, the first at bit 0, missing bits 0. -/
def byteOfBits (q : List Bool) : Byte := BitVec.ofNat 8 (bitsToNat q)

/-- The first `n` bytes of a bit sequence, eight bits to a byte. -/
def packBytes : Nat → List Bool → List Byte
  | 0, _ => []
  | n + 1, q => byteOfBits (q.take 8) :: packBytes n (q.drop 8)

/-- R86: the number of bytes that hold this many bits, `ceil(n/8)`. -/
def byteCount (n : Nat) : Nat := (n + 7) / 8

/-- R86: `pack(q)`, the final byte padded with zero bits in its high positions. -/
def pack (q : List Bool) : List Byte := packBytes (byteCount q.length) q

/-- R26: `zeros(n)`. -/
def zeros (n : Nat) : List Byte := List.replicate n 0

/-- R26: `zbits(n)`. -/
def zbits (n : Nat) : List Bool := List.replicate n false

/-- R115: FTYPE = TXCTL[2:0]. -/
def ftypeField (t : BitVec 6) : BitVec 3 := t.extractLsb' 0 3

/-- R115: PF = TXCTL[3]. -/
def pfField (t : BitVec 6) : Bool := t.getLsbD 3

/-- R115: CLEN = TXCTL[5:4]. -/
def clenField (t : BitVec 6) : BitVec 2 := t.extractLsb' 4 2

/-- R115: the frame type of an FTYPE value; 6 and 7 are reserved. -/
def frameType (ft : BitVec 3) : Option FrameType :=
  match ft.toNat with
  | 0 => some .info
  | 1 => some (.sup 0)
  | 2 => some (.sup 1)
  | 3 => some (.sup 2)
  | 4 => some (.sup 3)
  | 5 => some .ui
  | _ => none

/-- R115: the control length a frame type requires. -/
def FrameType.clen : FrameType → BitVec 2
  | .info => 2
  | .sup _ => 2
  | .ui => 1

/-- R115: whether a frame type carries a PID and an information field. -/
def FrameType.carriesInfo : FrameType → Bool
  | .info => true
  | .sup _ => false
  | .ui => true

end Sys2Proof.Machine
end

