-- ==== Sys2Proof/Machine/Flags.lean ====
section
/-! DEFINITION. The status flags (R51): the RESULT codes and details (R310, R311), the STATUS byte (R33) with its W1C
write, and the interrupt output (R315). -/
namespace Sys2Proof.Machine

/-- R310: RESULT.CODE of a completion. -/
def Completion.code : Completion → BitVec 4
  | .ok => 0
  | .illegalCmd | .lenRange | .nullInput | .callLen | .ftype | .clen | .alen | .shortAddr => 1
  | .noStartFlag | .noEndFlag | .overflow | .badLength | .notIControl => 2
  | .integrityError => 3
  | .addressMismatch => 4
  | .protocolIdError => 5
  | .unknownSupervisoryCode => 6
  | .sequenceMismatch => 7

/-- R311: RESULT.DETAIL of a completion. -/
def Completion.detail : Completion → BitVec 4
  | .ok => 0
  | .illegalCmd => 1
  | .lenRange => 2
  | .nullInput => 3
  | .callLen => 4
  | .ftype => 5
  | .clen => 6
  | .alen => 7
  | .shortAddr => 8
  | .noStartFlag => 1
  | .noEndFlag => 2
  | .overflow => 3
  | .badLength => 4
  | .notIControl => 5
  | .integrityError | .addressMismatch | .protocolIdError | .unknownSupervisoryCode | .sequenceMismatch => 0

/-- R311, R312: the RESULT byte, `(DETAIL << 4) | CODE`. -/
def Completion.byte (c : Completion) : Byte := c.detail ++ c.code

/-- R33: the STATUS byte: BUSY, DONE, OVR, and 0 in bits 7:3. -/
def statusByte (s : State) : Byte :=
  bitByte s.inFlight.isSome ||| (bitByte s.regs.done <<< 1) ||| (bitByte s.regs.ovr <<< 2)

/-- R33: a host write to STATUS clears DONE where bit 1 is 1 and OVR where bit 2 is 1, and changes nothing else. -/
def clearStatus (v : Byte) (r : Regs) : Regs :=
  { r with done := r.done && !v.getLsbD 1, ovr := r.ovr && !v.getLsbD 2 }

/-- R315: IRQ = STATUS.DONE & IRQ_EN.DONE_IE. -/
def State.irq (s : State) : Bool := s.regs.done && s.regs.doneIe

end Sys2Proof.Machine
end

