-- ==== Sys2Proof/Machine/Ops.lean ====
section
/-! DEFINITION. The shared operations: memory and the buffers (R47, R91), the register map and the host's one-byte
accesses (R31, R80-R85), completion (R312), the reset operations (R341-R343). There is no trap and no return from one
(R313): completion is what every command, failing or not, ends with. -/
namespace Sys2Proof.Machine

/-! ### Memory -/

/-- The byte held at an address; none where it is unwritten (R47). -/
def Memory.read (m : Memory) (a : Nat) : Option Byte := (m.find? fun c => Nat.beq c.1 a).map Prod.snd

/-- These bytes at consecutive addresses from `a`. -/
def cellsAt (a : Nat) : List Byte → Memory
  | [] => []
  | v :: vs => (a, v) :: cellsAt (a + 1) vs

/-- Memory with these bytes stored at consecutive addresses from `a`. -/
def Memory.write (m : Memory) (a : Nat) (vs : List Byte) : Memory :=
  m.filter (fun c => decide (c.1 < a)) ++ cellsAt a vs ++ m.filter (fun c => decide (a + vs.length ≤ c.1))

/-- R81: the first host address of a buffer. -/
def Buf.base : Buf → Nat
  | .info => 0x0100
  | .raw => 0x0200
  | .log => 0x0400

/-- R47: the capacity of a buffer. -/
def Buf.cap : Buf → Nat
  | .info => Config.INFO_CAP
  | .raw => Config.RAW_CAP
  | .log => Config.LOG_CAP

/-- R81, R82: the host address of index `i` of a buffer. -/
def Buf.address (b : Buf) (i : Nat) : Nat := b.base + i

/-- R81, R82: a host address is that of some buffer byte. -/
def Buf.holds (b : Buf) (a : Nat) : Bool := decide (b.base ≤ a) && decide (a < b.base + b.cap)

/-- The three buffers. -/
def Buf.all : List Buf := [.info, .raw, .log]

/-- The canonical form of memory: strictly rising addresses, each of them a buffer byte's. An unlisted byte is
unwritten (R47), and no entry says that. -/
abbrev Memory.wf (m : Memory) : Prop :=
  List.Pairwise (fun c d => c.1 < d.1) m ∧ (m.all fun c => Buf.all.any fun b => b.holds c.1) = true

/-- R91: `BufRead(B, i)`: the byte held, or a fault if it is unwritten. -/
def State.bufRead (s : State) (b : Buf) (i : Nat) : Except Fault Byte :=
  match s.mem.read (b.address i) with
  | some v => .ok v
  | none => .error (.unwrittenRead (b.address i))

/-- R91: `n` BufReads from index `i` up, the first unwritten byte faulting. -/
def State.bufReads (s : State) (b : Buf) (i : Nat) : Nat → Except Fault (List Byte)
  | 0 => .ok []
  | n + 1 =>
    match s.bufRead b i with
    | .error e => .error e
    | .ok v =>
      match s.bufReads b (i + 1) n with
      | .error e => .error e
      | .ok vs => .ok (v :: vs)

/-- R91: BufWrites of these bytes from index `i` up. -/
def State.bufWrite (b : Buf) (i : Nat) (vs : List Byte) (s : State) : State :=
  { s with mem := s.mem.write (b.address i) vs }

/-- What follows a command's read of `n` bytes of a buffer from index `i`: `k` of those bytes, or the fault (R91). -/
def withBytes (b : Buf) (i n : Nat) (s : State) (k : List Byte → Outcome) : Outcome :=
  match s.bufReads b i n with
  | .error e => .fault e
  | .ok vs => k vs

/-- What follows a command's BufRead of one byte: `k` of it, or the fault (R91). -/
def withByte (b : Buf) (i : Nat) (s : State) (k : Byte → Outcome) : Outcome :=
  match s.bufRead b i with
  | .error e => .fault e
  | .ok v => k v

/-! ### Completion -/

/-- R312: the state after `finish(CODE, DETAIL)`: RESULT written, DONE set, BUSY 0. -/
def State.completed (c : Completion) (s : State) : State :=
  { s with regs := { s.regs with result := c.byte, done := true }, inFlight := none }

/-- R312: every command ends with `finish(CODE, DETAIL)`. -/
def finish (c : Completion) (s : State) : Outcome := .next (s.completed c)

/-! ### The register map (R31, R81) -/

/-- R31: control and link state, 0x000-0x00F. -/
def controlRows : List RegRow :=
  [⟨.cmd, 0x000, 1, .wo⟩, ⟨.status, 0x001, 1, .w1c⟩, ⟨.result, 0x002, 1, .ro⟩, ⟨.irqEn, 0x003, 1, .rw⟩,
   ⟨.vs, 0x008, 1, .ro⟩, ⟨.vr, 0x009, 1, .ro⟩]

/-- R31: lengths and FCS, 0x010-0x01F. -/
def lengthRows : List RegRow :=
  [⟨.infoLen, 0x010, 2, .rw⟩, ⟨.logLen, 0x012, 2, .rw⟩, ⟨.rawLen, 0x014, 2, .rw⟩, ⟨.rawBits, 0x016, 2, .rw⟩,
   ⟨.dstfTail, 0x018, 1, .ro⟩, ⟨.fcs, 0x01A, 2, .rw⟩, ⟨.fcsCalc, 0x01C, 2, .ro⟩]

/-- R31: the transmit and station registers, 0x020-0x04D. -/
def stationRows : List RegRow :=
  [⟨.txctl, 0x020, 1, .rw⟩, ⟨.txAlen, 0x021, 1, .rw⟩,
   ⟨.txDestLen, 0x022, 1, .rw⟩, ⟨.txDestSsid, 0x023, 1, .rw⟩, ⟨.txDestCall, 0x024, 6, .rw⟩,
   ⟨.txSrcLen, 0x02A, 1, .rw⟩, ⟨.txSrcSsid, 0x02B, 1, .rw⟩, ⟨.txSrcCall, 0x02C, 6, .rw⟩,
   ⟨.localLen, 0x032, 1, .rw⟩, ⟨.localSsid, 0x033, 1, .rw⟩, ⟨.localCall, 0x034, 6, .rw⟩,
   ⟨.addr, 0x040, 14, .ro⟩]

/-- R31: the receive and decoded-address registers, 0x050-0x071. -/
def receiveRows : List RegRow :=
  [⟨.rxKind, 0x050, 1, .ro⟩, ⟨.rxNs, 0x051, 1, .ro⟩, ⟨.rxNr, 0x052, 1, .ro⟩, ⟨.rxPf, 0x053, 1, .ro⟩,
   ⟨.rxScode, 0x054, 1, .ro⟩, ⟨.rxCtrl0, 0x055, 1, .ro⟩, ⟨.rxCtrl1, 0x056, 1, .ro⟩, ⟨.rxPid, 0x057, 1, .ro⟩,
   ⟨.decDestLen, 0x060, 1, .ro⟩, ⟨.decDestSsid, 0x061, 1, .ro⟩, ⟨.decDestExt, 0x062, 1, .ro⟩,
   ⟨.decDestCall, 0x063, 6, .ro⟩,
   ⟨.decSrcLen, 0x069, 1, .ro⟩, ⟨.decSrcSsid, 0x06A, 1, .ro⟩, ⟨.decSrcExt, 0x06B, 1, .ro⟩,
   ⟨.decSrcCall, 0x06C, 6, .ro⟩]

/-- R31: the whole table. -/
def regMap : List RegRow := controlRows ++ lengthRows ++ stationRows ++ receiveRows

/-- The row covers the address. -/
def RegRow.covers (r : RegRow) (a : Nat) : Bool := decide (r.base ≤ a) && decide (a < r.base + r.size)

/-- The host address of CMD (R31). -/
abbrev CMD : Addr := 0x000

/-- The host address of STATUS (R31). -/
abbrev STATUS : Addr := 0x001

/-- R81, R83: what stands at a host address. -/
def locate (a : Addr) : Place :=
  match regMap.find? fun r => r.covers a.toNat with
  | some r => .reg r (a.toNat - r.base)
  | none =>
    match Buf.all.find? fun b => b.holds a.toNat with
    | some b => .buf b (a.toNat - b.base)
    | none => .reserved

/-- R31: the value of byte `k` of a register; reserved bits are 0 (R83), CMD reads 0 (R84). -/
def regByte (s : State) (k : Nat) : Reg → Byte
  | .cmd => 0
  | .status => statusByte s
  | .result => s.regs.result
  | .irqEn => bitByte s.regs.doneIe
  | .vs => s.regs.vs.setWidth 8
  | .vr => s.regs.vr.setWidth 8
  | .infoLen => byteOf s.regs.infoLen k
  | .logLen => byteOf s.regs.logLen k
  | .rawLen => byteOf s.regs.rawLen k
  | .rawBits => byteOf s.regs.rawBits k
  | .dstfTail => s.regs.dstfTail.setWidth 8
  | .fcs => byteOf s.regs.fcs k
  | .fcsCalc => byteOf s.regs.fcsCalc k
  | .txctl => s.regs.txctl.setWidth 8
  | .txAlen => s.regs.txAlen
  | .txDestLen => s.regs.txDest.len
  | .txDestSsid => s.regs.txDest.ssid
  | .txDestCall => s.regs.txDest.call[k]?.getD 0
  | .txSrcLen => s.regs.txSrc.len
  | .txSrcSsid => s.regs.txSrc.ssid
  | .txSrcCall => s.regs.txSrc.call[k]?.getD 0
  | .localLen => s.regs.localStn.len
  | .localSsid => s.regs.localStn.ssid
  | .localCall => s.regs.localStn.call[k]?.getD 0
  | .addr => s.regs.addr[k]?.getD 0
  | .rxKind => s.regs.rxKind.setWidth 8
  | .rxNs => s.regs.rxNs.setWidth 8
  | .rxNr => s.regs.rxNr.setWidth 8
  | .rxPf => bitByte s.regs.rxPf
  | .rxScode => s.regs.rxScode.setWidth 8
  | .rxCtrl0 => s.regs.rxCtrl0
  | .rxCtrl1 => s.regs.rxCtrl1
  | .rxPid => s.regs.rxPid
  | .decDestLen => s.regs.decDest.len
  | .decDestSsid => s.regs.decDest.ssid
  | .decDestExt => bitByte s.regs.decDest.ext
  | .decDestCall => s.regs.decDest.call[k]?.getD 0
  | .decSrcLen => s.regs.decSrc.len
  | .decSrcSsid => s.regs.decSrc.ssid
  | .decSrcExt => bitByte s.regs.decSrc.ext
  | .decSrcCall => s.regs.decSrc.call[k]?.getD 0

/-- R43: a call-sign with character `k` written. -/
def Station.setChar (t : Station) (k : Nat) (v : Byte) : Station := { t with call := t.call.setIfInBounds k v }

/-- R32: what the host's write of byte `k` of a register leaves. Reserved bits ignore it (R41); STATUS is W1C (R33); an
RO register and CMD, whose write is the engine's matter, are unchanged (R84). -/
def writeReg (k : Nat) (v : Byte) (r : Regs) : Reg → Regs
  | .status => clearStatus v r
  | .irqEn => { r with doneIe := v.getLsbD 0 }
  | .infoLen => { r with infoLen := setByteOf r.infoLen k v }
  | .logLen => { r with logLen := setByteOf r.logLen k v }
  | .rawLen => { r with rawLen := setByteOf r.rawLen k v }
  | .rawBits => { r with rawBits := setByteOf r.rawBits k v }
  | .fcs => { r with fcs := setByteOf r.fcs k v }
  | .txctl => { r with txctl := v.setWidth 6 }
  | .txAlen => { r with txAlen := v }
  | .txDestLen => { r with txDest := { r.txDest with len := v } }
  | .txDestSsid => { r with txDest := { r.txDest with ssid := v } }
  | .txDestCall => { r with txDest := r.txDest.setChar k v }
  | .txSrcLen => { r with txSrc := { r.txSrc with len := v } }
  | .txSrcSsid => { r with txSrc := { r.txSrc with ssid := v } }
  | .txSrcCall => { r with txSrc := r.txSrc.setChar k v }
  | .localLen => { r with localStn := { r.localStn with len := v } }
  | .localSsid => { r with localStn := { r.localStn with ssid := v } }
  | .localCall => { r with localStn := r.localStn.setChar k v }
  | .cmd | .result | .vs | .vr | .dstfTail | .fcsCalc | .addr
  | .rxKind | .rxNs | .rxNr | .rxPf | .rxScode | .rxCtrl0 | .rxCtrl1 | .rxPid
  | .decDestLen | .decDestSsid | .decDestExt | .decDestCall
  | .decSrcLen | .decSrcSsid | .decSrcExt | .decSrcCall => r

/-- R80-R84: `MemRead(a, 1)`: a register byte, a buffer byte (a fault if unwritten, R91), or 0. -/
def memRead (s : State) (a : Addr) : Except Fault Byte :=
  match locate a with
  | .reg row k => .ok (regByte s k row.name)
  | .buf b i => s.bufRead b i
  | .reserved => .ok 0

/-- R80-R84: `MemWrite(a, 1, v)` at any address but CMD: a register byte by its access code, a buffer byte, or nothing. -/
def memWrite (a : Addr) (v : Byte) (s : State) : State :=
  match locate a with
  | .reg row k =>
    match row.access with
    | .rw | .w1c => { s with regs := writeReg k v s.regs row.name }
    | .ro | .wo => s
  | .buf b i => s.bufWrite b i [v]
  | .reserved => s

/-! ### Commands and resets -/

/-- R48: a command is in flight from the CMD write that starts it. -/
def State.start (i : Instr) (s : State) : State := { s with inFlight := some i }

/-- R346: a CMD write while BUSY = 1 is dropped and sets OVR. -/
def State.overrun (s : State) : State := { s with regs := { s.regs with ovr := true } }

/-- R301, R341: every register at its reset value, the buffers as they were. -/
def State.softReset (s : State) : State := { s with regs := Regs.reset }

/-- R341-R343: the hard reset: registers at their reset values, every buffer byte unwritten, the command in flight
abandoned. The RST level and the inputs belong to the outside world and stay. -/
def State.hardReset (s : State) : State :=
  { s with regs := Regs.reset, mem := [], inFlight := none, response := none }

/-- R340: the RST input takes a level; going high (or staying high) it resets the block. -/
def State.setRst (level : Bool) (s : State) : State :=
  if level then { s.hardReset with rst := true } else { s with rst := false }

end Sys2Proof.Machine
end

