-- ==== Sys2Proof/Machine/Address.lean ====
section
/-! DEFINITION. The Address Field Codec (42_address.md): AENC and ADEC and the primitives ASM and PARSE share. -/
namespace Sys2Proof.Machine

/-- R200: character `i` of a call-sign as it is sent: shifted left one bit, the space where `i` is past its length. -/
def encChar (t : Station) (i : Nat) : Byte :=
  (if i < t.len.toNat then t.call[i]?.getD 0 else Config.SPACE) <<< 1

/-- R200: `enc_call(call, n)`. -/
def encCall (t : Station) : List Byte :=
  [encChar t 0, encChar t 1, encChar t 2, encChar t 3, encChar t 4, encChar t 5]

/-- R201: the SSID octet with bit 0 replaced by the extension bit. -/
def encSsid (ssid : Byte) (ext : Bool) : Byte := (ssid &&& 0xFE) ||| bitByte ext

/-- R201: `enc_sub(call, n, ssid, ext)`. -/
def encSub (t : Station) (ext : Bool) : List Byte := encCall t ++ [encSsid t.ssid ext]

/-- R202: `enc_addr()`, the address field of a frame from `src` to `dest`. -/
def encAddr (dest src : Station) : List Byte := encSub dest false ++ encSub src true

/-- R44: a 14-byte address field as the ADDR registers hold it. -/
def addrRegs (a : List Byte) : Vector Byte 14 := Vector.ofFn fun i => a.getD i.val 0

/-- R203, R220, R250: a call-sign length above 6 is illegal. -/
def Station.tooLong (t : Station) : Bool := decide (Config.MAX_CALL < t.len.toNat)

/-- R204: the characters of a sub-field, `b[i] >> 1` for i in 0..5. -/
def decChars (b : List Byte) : List Byte := (b.take 6).map (BitVec.ushiftRight · 1)

/-- R204: 6 less the number of trailing spaces. -/
def decLen (b : List Byte) : Nat := 6 - ((decChars b).reverse.takeWhile fun v => v == Config.SPACE).length

/-- R205: `dec_sub(b)` of a 7-byte sub-field. -/
def decSub (b : List Byte) : Decoded where
  len := BitVec.ofNat 8 (decLen b)
  ssid := b.getD 6 0
  ext := (b.getD 6 0).getLsbD 0
  call := Vector.ofFn fun i => (decChars b).getD i.val 0

/-- R206: `write_dec(a)` of a 14-byte address field. -/
def State.writeDec (a : List Byte) (s : State) : State :=
  { s with regs := { s.regs with decDest := decSub (a.take 7), decSrc := decSub ((a.drop 7).take 7) } }

/-- R207: `local_match(F)`: the destination bytes are the local station encoded as a destination. -/
def localMatch (t : Station) (frame : List Byte) : Bool := frame.take 7 == encSub t false

/-- AENC (R203). -/
def execAenc (s : State) : Outcome :=
  if s.regs.txDest.tooLong || s.regs.txSrc.tooLong then finish .callLen s
  else finish .ok { s with regs := { s.regs with addr := addrRegs (encAddr s.regs.txDest s.regs.txSrc) } }

/-- ADEC (R206). -/
def execAdec (s : State) : Outcome :=
  if Config.LOG_CAP < s.regs.logLen.toNat then finish .lenRange s
  else if s.regs.logLen.toNat < Config.ALEN then finish .shortAddr s
  else withBytes .log 0 Config.ALEN s fun bytes => finish .ok (s.writeDec bytes)

end Sys2Proof.Machine
end

