-- ==== Sys2Proof/Machine/BitChannel.lean ====
section
/-! DEFINITION. The Bit Channel Codec (40_bit_channel.md): STUFF and DESTUFF and the primitives ASM and PARSE share. -/
namespace Sys2Proof.Machine

/-- R150: `stuff` with `run` one-bits just sent: a 0 follows the fifth consecutive one-bit. -/
def stuffFrom : Nat → List Bool → List Bool
  | _, [] => []
  | run, true :: q => if run + 1 = 5 then true :: false :: stuffFrom 0 q else true :: stuffFrom (run + 1) q
  | _, false :: q => false :: stuffFrom 0 q

/-- R150: `stuff(q)`. -/
def stuff (q : List Bool) : List Bool := stuffFrom 0 q

/-- R151: `destuff` with `run` one-bits just received (saturating at 6): a 0 after exactly five is discarded. -/
def destuffFrom : Nat → List Bool → List Bool
  | _, [] => []
  | run, true :: q => true :: destuffFrom (min (run + 1) 6) q
  | run, false :: q => if run = 5 then destuffFrom 0 q else false :: destuffFrom 0 q

/-- R151: `destuff(q)`. -/
def destuff (q : List Bool) : List Bool := destuffFrom 0 q

/-- R156: the number of whole bytes of a destuffed sequence. -/
def wholeBytes (d : List Bool) : Nat := d.length / 8

/-- R156: the first `n` whole bytes of a destuffed sequence. -/
def bytesOf (n : Nat) (d : List Bool) : List Byte := pack (d.take (8 * n))

/-- R156: the state after `destuff_to_log` of a sequence whose destuffed form is `d`: on overflow LOG is filled to its
capacity and LOG_LEN and DSTF_TAIL are 0; else LOG holds the whole bytes and DSTF_TAIL counts the bits left over. -/
def State.logDestuffed (d : List Bool) (s : State) : State :=
  if Config.LOG_CAP < wholeBytes d then
    { s.bufWrite .log 0 (bytesOf Config.LOG_CAP d) with
      regs := { s.regs with logLen := 0, dstfTail := 0 } }
  else
    { s.bufWrite .log 0 (bytesOf (wholeBytes d) d) with
      regs := { s.regs with logLen := BitVec.ofNat 16 (wholeBytes d), dstfTail := BitVec.ofNat 3 (d.length % 8) } }

/-- R153: the state STUFF leaves before it finishes, for the LOG bytes it read. -/
def State.stuffed (bytes : List Byte) (s : State) : State :=
  let q := stuff (bits bytes)
  { s.bufWrite .raw 0 (pack q) with
    regs := { s.regs with rawLen := BitVec.ofNat 16 (pack q).length, rawBits := BitVec.ofNat 16 q.length } }

/-- STUFF (R153). -/
def execStuff (s : State) : Outcome :=
  if Config.LOG_CAP < s.regs.logLen.toNat then finish .lenRange s
  else withBytes .log 0 s.regs.logLen.toNat s fun bytes => finish .ok (s.stuffed bytes)

/-- DESTUFF (R154). -/
def execDestuff (s : State) : Outcome :=
  let m := s.regs.rawBits.toNat
  if Config.RAW_BITS_CAP < m then finish .lenRange s
  else withBytes .raw 0 (byteCount m) s fun bytes =>
    let d := destuff ((bits bytes).take m)
    finish (if Config.LOG_CAP < wholeBytes d then .overflow else .ok) (s.logDestuffed d)

end Sys2Proof.Machine
end

