-- ==== Sys2Proof/Machine/FrameCheck.lean ====
section
/-! DEFINITION. The Frame Check Sequence Engine (41_fcs.md): FCSGEN and FCSCHK and the primitives ASM and PARSE share. -/
namespace Sys2Proof.Machine

/-- R180: one polynomial-reduction step. -/
def crcStep (r : Half) : Half := if r.getLsbD 0 then (r >>> 1) ^^^ 0x8408 else r >>> 1

/-- R180: `n` polynomial-reduction steps. -/
def crcSteps : Nat → Half → Half
  | 0, r => r
  | n + 1, r => crcSteps n (crcStep r)

/-- R180: the accumulator after one byte, which enters the low half (90_conflicts.md C1). -/
def crcByte (r : Half) (b : Byte) : Half := crcSteps 8 (r ^^^ b.setWidth 16)

/-- R180: `crc_x25(s)`. -/
def crcX25 (s : List Byte) : Half := s.foldl crcByte 0xFFFF ^^^ 0xFFFF

/-- R181: `compute(s)`, the transmitted FCS value. -/
def fcsCompute (s : List Byte) : Half := rev16 (crcX25 s)

/-- R182: `verify(s, f)`. -/
def fcsVerify (s : List Byte) (f : Half) : Bool := f == fcsCompute s

/-- R184: the FCS field of a logical frame whose bytes before it are `s`, low byte first. -/
def fcsField (s : List Byte) : List Byte := [lo8 (fcsCompute s), hi8 (fcsCompute s)]

/-- FCSGEN (R185). -/
def execFcsgen (s : State) : Outcome :=
  if Config.LOG_CAP < s.regs.logLen.toNat then finish .lenRange s
  else withBytes .log 0 s.regs.logLen.toNat s fun bytes =>
    let f := fcsCompute bytes
    finish .ok { s with regs := { s.regs with fcs := f, fcsCalc := f } }

/-- FCSCHK (R186). -/
def execFcschk (s : State) : Outcome :=
  if Config.LOG_CAP < s.regs.logLen.toNat then finish .lenRange s
  else withBytes .log 0 s.regs.logLen.toNat s fun bytes =>
    finish (if fcsVerify bytes s.regs.fcs then .ok else .integrityError)
      { s with regs := { s.regs with fcsCalc := fcsCompute bytes } }

end Sys2Proof.Machine
end

