-- ==== Sys2Proof/Machine/LinkState.lean ====
section
/-! DEFINITION. Link State (45_link_state.md): the counter increment and the commands INCVS and INCVR. -/
namespace Sys2Proof.Machine

/-- R290: `incr(x) = (x + 1) mod 128`. -/
def incr (x : BitVec 7) : BitVec 7 := x + 1

/-- INCVS (R291). -/
def execIncvs (s : State) : Outcome := finish .ok { s with regs := { s.regs with vs := incr s.regs.vs } }

/-- INCVR (R292). -/
def execIncvr (s : State) : Outcome := finish .ok { s with regs := { s.regs with vr := incr s.regs.vr } }

end Sys2Proof.Machine
end

