-- ==== Sys2Proof/Machine/Assembler.lean ====
section
/-! DEFINITION. The Frame Assembler (43_assembler.md): ASM and the wire formats it builds (R118-R122). -/
namespace Sys2Proof.Machine

/-- A 7-bit sequence number and a low bit in one control byte: `((n << 1) | bit) & 0xFF` (R118, R119). -/
def seqByte (n : BitVec 7) (low : Bool) : Byte := (n.setWidth 8 <<< 1) ||| bitByte low

/-- R222: the control field of a frame, from VS and VR as they are when ASM starts (R118-R120). -/
def controlField (ft : FrameType) (pf : Bool) (vs vr : BitVec 7) : List Byte :=
  match ft with
  | .info => [seqByte vs false, seqByte vr pf]
  | .sup ss => [0x01 ||| (ss.setWidth 8 <<< 2), seqByte vr pf]
  | .ui => [0x03 ||| (bitByte pf <<< 4)]

/-- R223: the PID and the information field, zero-padded to its fixed size; nothing for an S frame. -/
def pidInfo (ft : FrameType) (payload : List Byte) : List Byte :=
  if ft.carriesInfo then Config.PID_NOL3 :: (payload ++ zeros (Config.INFO_CAP - payload.length)) else []

/-- R121, R224: the logical frame before its FCS, `A ++ C ++ P`. -/
def frameBody (ft : FrameType) (payload : List Byte) (r : Regs) : List Byte :=
  encAddr r.txDest r.txSrc ++ controlField ft (pfField r.txctl) r.vs r.vr ++ pidInfo ft payload

/-- R224: a logical frame, its FCS last. -/
def withFcs (body : List Byte) : List Byte := body ++ fcsField body

/-- R122: the stuffed bits of a logical frame. -/
def stuffedBits (frame : List Byte) : List Bool := stuff (bits frame)

/-- R122: `raw(F)`: a flag, the packed stuffed bits with their zero pad, a flag. -/
def rawFrame (frame : List Byte) : List Byte := Config.FLAG :: (pack (stuffedBits frame) ++ [Config.FLAG])

/-- R227: VS after ASM: incremented for an I frame only. -/
def vsAfter (ft : FrameType) (vs : BitVec 7) : BitVec 7 :=
  match ft with
  | .info => incr vs
  | .sup _ => vs
  | .ui => vs

/-- R226, R227: the state ASM leaves before it finishes. -/
def State.assembled (ft : FrameType) (payload : List Byte) (s : State) : State :=
  let body := frameBody ft payload s.regs
  let frame := withFcs body
  { (s.bufWrite .log 0 frame).bufWrite .raw 0 (rawFrame frame) with
    regs := { s.regs with
      addr := addrRegs (encAddr s.regs.txDest s.regs.txSrc)
      logLen := BitVec.ofNat 16 frame.length
      fcs := fcsCompute body
      rawLen := BitVec.ofNat 16 (rawFrame frame).length
      rawBits := BitVec.ofNat 16 (stuffedBits frame).length
      vs := vsAfter ft s.regs.vs } }

/-- R223: how many INFO bytes ASM reads. -/
def payloadLen (ft : FrameType) (r : Regs) : Nat := if ft.carriesInfo then r.infoLen.toNat else 0

/-- R220: the argument checks after FTYPE, in their order; none where all pass. -/
def asmCheck (ft : FrameType) (r : Regs) : Option Completion :=
  if clenField r.txctl ≠ ft.clen then some .clen
  else if r.txAlen ≠ BitVec.ofNat 8 Config.ALEN then some .alen
  else if r.txDest.tooLong || r.txSrc.tooLong then some .callLen
  else if Config.INFO_CAP < payloadLen ft r then some .lenRange
  else none

/-- ASM (R228). -/
def execAsm (s : State) : Outcome :=
  match frameType (ftypeField s.regs.txctl) with
  | none => finish .ftype s
  | some ft =>
    match asmCheck ft s.regs with
    | some c => finish c s
    | none => withBytes .info 0 (payloadLen ft s.regs) s fun payload => finish .ok (s.assembled ft payload)

end Sys2Proof.Machine
end

