-- ==== Sys2Proof/Machine/Control.lean ====
section
/-! DEFINITION. The control commands (46_control.md): NOP, SRST, and the CMD values that are not commands. -/
namespace Sys2Proof.Machine

/-- NOP (R300). -/
def execNop (s : State) : Outcome := finish .ok s

/-- SRST (R301): the soft reset, then the completion that sets DONE. -/
def execSrst (s : State) : Outcome := finish .ok s.softReset

/-- R112, R302: a CMD value that is no command completes at once and changes only RESULT and DONE. -/
def illegalCommand (s : State) : Outcome := finish .illegalCmd s

/-- RESERVED_0B (R302). -/
def execReserved0b (s : State) : Outcome := illegalCommand s

/-- RESERVED_0C (R302). -/
def execReserved0c (s : State) : Outcome := illegalCommand s

/-- RESERVED_0D (R302). -/
def execReserved0d (s : State) : Outcome := illegalCommand s

/-- RESERVED_0E (R302). -/
def execReserved0e (s : State) : Outcome := illegalCommand s

/-- ILLEGAL, CMD 1xxxxxxx (R302): the low bits do not matter. -/
def execIllegal80 (_cmd : Byte) (s : State) : Outcome := illegalCommand s

/-- ILLEGAL, CMD 01xxxxxx (R302). -/
def execIllegal40 (_cmd : Byte) (s : State) : Outcome := illegalCommand s

/-- ILLEGAL, CMD 001xxxxx (R302). -/
def execIllegal20 (_cmd : Byte) (s : State) : Outcome := illegalCommand s

/-- ILLEGAL, CMD 0001xxxx (R302). -/
def execIllegal10 (_cmd : Byte) (s : State) : Outcome := illegalCommand s

end Sys2Proof.Machine
end

