-- ==== Sys2Proof/Machine/Parser.lean ====
section
/-! DEFINITION. The Frame Parser (44_parser.md): PARSE, one definition per step of R250-R262. `frame` is the logical
frame: the whole bytes `destuff_to_log` has just put in LOG, which the later steps read back (R265). -/
namespace Sys2Proof.Machine

/-- R254: the FCS a logical frame carries, low byte first at its end. -/
def frameFcs (frame : List Byte) : Half :=
  ofBytes (frame.getD (frame.length - 2) 0) (frame.getD (frame.length - 1) 0)

/-- R183, R254: the bytes the FCS covers. -/
def fcsSpan (frame : List Byte) : List Byte := frame.take (frame.length - 2)

/-- The first control byte C0 = LOG[14] (R256). -/
def ctrl0 (frame : List Byte) : Byte := frame.getD 14 0

/-- The second control byte C1 = LOG[15] (R256). -/
def ctrl1 (frame : List Byte) : Byte := frame.getD 15 0

/-- LOG[16], the PID of an I frame (R256, R259). -/
def pidOf (frame : List Byte) : Byte := frame.getD 16 0

/-- A 7-bit sequence number from a control byte: `C >> 1` (R256). -/
def seqField (c : Byte) : BitVec 7 := c.extractLsb' 1 7

/-- R256: the supervisory code of a control byte: `(C0 >> 2) & 3`. -/
def scodeField (c : Byte) : BitVec 2 := c.extractLsb' 2 2

/-- R261, R262: the four legal C0 values of a supervisory frame. -/
def legalSupervisory (c : Byte) : Bool := c == 0x01 || c == 0x05 || c == 0x09 || c == 0x0D

/-- R256: the RX field registers of an I-length frame. -/
def State.rxInfo (frame : List Byte) (s : State) : State :=
  { s with regs := { s.regs with
      rxCtrl0 := ctrl0 frame
      rxCtrl1 := ctrl1 frame
      rxNr := seqField (ctrl1 frame)
      rxPf := (ctrl1 frame).getLsbD 0
      rxNs := seqField (ctrl0 frame)
      rxScode := 0
      rxPid := pidOf frame } }

/-- R256: the RX field registers of an S-length frame. -/
def State.rxSup (frame : List Byte) (s : State) : State :=
  { s with regs := { s.regs with
      rxCtrl0 := ctrl0 frame
      rxCtrl1 := ctrl1 frame
      rxNr := seqField (ctrl1 frame)
      rxPf := (ctrl1 frame).getLsbD 0
      rxNs := 0
      rxScode := scodeField (ctrl0 frame)
      rxPid := 0 } }

/-- R260: delivery of an accepted I frame. -/
def State.deliver (frame : List Byte) (s : State) : State :=
  { s.bufWrite .info 0 ((frame.drop 17).take Config.INFO_CAP) with
    regs := { s.regs with infoLen := BitVec.ofNat 16 Config.INFO_CAP, vr := incr s.regs.vr, rxKind := 1 } }

/-- R257-R260: the information path after control extraction. -/
def parseInfo (frame : List Byte) (s : State) : Outcome :=
  if (ctrl0 frame).getLsbD 0 then finish .notIControl s
  else if seqField (ctrl0 frame) ≠ s.regs.vr then finish .sequenceMismatch s
  else if pidOf frame ≠ Config.PID_NOL3 then finish .protocolIdError s
  else finish .ok (s.deliver frame)

/-- R261, R262: the supervisory path after control extraction. -/
def parseSup (frame : List Byte) (s : State) : Outcome :=
  if legalSupervisory (ctrl0 frame) then finish .ok { s with regs := { s.regs with rxKind := 2 } }
  else finish .unknownSupervisoryCode s

/-- R256: control extraction, then the path of the frame's length (R253). -/
def parseControl (frame : List Byte) (s : State) : Outcome :=
  if frame.length = Config.I_LEN then parseInfo frame (s.rxInfo frame) else parseSup frame (s.rxSup frame)

/-- R255: address decode, then the match. -/
def parseAddress (frame : List Byte) (s : State) : Outcome :=
  let t := s.writeDec (frame.take Config.ALEN)
  if localMatch t.regs.localStn frame then parseControl frame t else finish .addressMismatch t

/-- R254: FCS and FCS_CALC, then the check. -/
def parseFcs (frame : List Byte) (s : State) : Outcome :=
  let t := { s with regs := { s.regs with fcs := frameFcs frame, fcsCalc := fcsCompute (fcsSpan frame) } }
  if fcsVerify (fcsSpan frame) (frameFcs frame) then parseAddress frame t else finish .integrityError t

/-- R252, R253: destuffing into LOG, then classification by length. More than LOG_CAP whole bytes are OVERFLOW, 275 of
them too (DEDUCED, unsafe; log entry 6). -/
def parseBody (interior : List Byte) (s : State) : Outcome :=
  let d := destuff (bits interior)
  let t := s.logDestuffed d
  if Config.LOG_CAP < wholeBytes d then finish .overflow t
  else if wholeBytes d ≠ Config.S_LEN ∧ wholeBytes d ≠ Config.I_LEN then finish .badLength t
  else parseFcs (bytesOf (wholeBytes d) d) t

/-- R251: flag detection; then the interior RAW[1..n-2] is read. The RAW bytes are read in this order, each when its
check needs it (DEDUCED, unsafe; log entry 5). -/
def parseFlags (n : Nat) (s : State) : Outcome :=
  withByte .raw 0 s fun first =>
    if first ≠ Config.FLAG then finish .noStartFlag s
    else withByte .raw (n - 1) s fun last =>
      if last ≠ Config.FLAG then finish .noEndFlag s
      else withBytes .raw 1 (n - 2) s fun interior => parseBody interior s

/-- R250: PARSE's first action. -/
def State.rxCleared (s : State) : State := { s with regs := { s.regs with rxKind := 0 } }

/-- PARSE (R265): RX_KIND cleared, the argument checks of R250, then R251. -/
def execParse (s : State) : Outcome :=
  let n := s.regs.rawLen.toNat
  if s.regs.localStn.tooLong then finish .callLen s.rxCleared
  else if Config.RAW_CAP < n then finish .lenRange s.rxCleared
  else if n = 0 then finish .nullInput s.rxCleared
  else parseFlags n s.rxCleared

end Sys2Proof.Machine
end

