-- ==== Sys2Proof/Machine/Dispatch.lean ====
section
/-! DEFINITION. The meaning of every command: one arm per row of spec/opcode_table.json. -/
namespace Sys2Proof.Machine

def exec (i : Instr) (s : State) : Host.Outcome State Fault Refusal :=
  match i with
  | .nop => Sys2Proof.Machine.execNop s
  | .stuff => Sys2Proof.Machine.execStuff s
  | .destuff => Sys2Proof.Machine.execDestuff s
  | .fcsgen => Sys2Proof.Machine.execFcsgen s
  | .fcschk => Sys2Proof.Machine.execFcschk s
  | .aenc => Sys2Proof.Machine.execAenc s
  | .adec => Sys2Proof.Machine.execAdec s
  | .asm => Sys2Proof.Machine.execAsm s
  | .parse => Sys2Proof.Machine.execParse s
  | .incvs => Sys2Proof.Machine.execIncvs s
  | .incvr => Sys2Proof.Machine.execIncvr s
  | .srst => Sys2Proof.Machine.execSrst s
  | .reserved0b => Sys2Proof.Machine.execReserved0b s
  | .reserved0c => Sys2Proof.Machine.execReserved0c s
  | .reserved0d => Sys2Proof.Machine.execReserved0d s
  | .reserved0e => Sys2Proof.Machine.execReserved0e s
  | .illegal80 cmd => Sys2Proof.Machine.execIllegal80 cmd s
  | .illegal40 cmd => Sys2Proof.Machine.execIllegal40 cmd s
  | .illegal20 cmd => Sys2Proof.Machine.execIllegal20 cmd s
  | .illegal10 cmd => Sys2Proof.Machine.execIllegal10 cmd s

end Sys2Proof.Machine
end

