-- ==== Sys2Proof/Machine/HostPort.lean ====
section
/-! DEFINITION. What the block does with one input of the outside world (20_memory.md, 70_reset_and_hazards.md): in
reset (R340), with no command in flight, and with one in flight (R345-R347). -/
namespace Sys2Proof.Machine

/-- R112: the CMD write that starts a command of an idle block; the command runs to completion in this step (R94). -/
def runCommand (v : Byte) (s : State) : Outcome := exec (decodeByte v) (s.start (decodeByte v))

/-- The host read answers with this byte. -/
def State.respond (v : Byte) (s : State) : State := { s with response := some v }

/-- R80: a host read of an idle block, or of STATUS at any time. -/
def hostRead (a : Addr) (s : State) : Outcome :=
  match memRead s a with
  | .error e => .fault e
  | .ok v => .next (s.respond v)

/-- An input to an idle block: BUSY = 0, RST low. An illegal CMD value completes at once, however it is timed
(R302; DEDUCED, unsafe; log entry 7). -/
def idleInput (x : Input) (s : State) : Outcome :=
  match x with
  | .read a => hostRead a s
  | .write a v => if a = CMD then runCommand v s else .next (memWrite a v s)
  | .issue v => if (decodeByte v).isCommand then .next (s.start (decodeByte v)) else runCommand v s
  | .complete => .next s
  | .rst level => .next (s.setRst level)
  | .powerOn => .next s.hardReset

/-- An input while a command is in flight (BUSY = 1): R346 for a CMD write, R345 for a STATUS read, R343 for a hard
reset, R347 for any other host access. -/
def busyInput (i : Instr) (x : Input) (s : State) : Outcome :=
  match x with
  | .read a => if a = STATUS then hostRead a s else .fault (.busyHazard a.toNat)
  | .write a _ => if a = CMD then .next s.overrun else .fault (.busyHazard a.toNat)
  | .issue _ => .next s.overrun
  | .complete => exec i s
  | .rst level => .next (s.setRst level)
  | .powerOn => .next s.hardReset

/-- R340: an input while RST is high: reads return 0x00, writes are dropped, the engine does nothing
(log entry 10). -/
def heldInput (x : Input) (s : State) : Outcome :=
  match x with
  | .read _ => .next (s.respond 0)
  | .write _ _ => .next s
  | .issue _ => .next s
  | .complete => .next s
  | .rst level => .next (s.setRst level)
  | .powerOn => .next s.hardReset

/-- One input, its predecessors' response gone. -/
def onInput (x : Input) (s : State) : Outcome :=
  if s.rst then heldInput x s
  else
    match s.inFlight with
    | none => idleInput x s
    | some i => busyInput i x s

/-- The oldest input is taken. -/
def State.take (rest : List Input) (s : State) : State := { s with inputs := rest, response := none }

/-- No input is pending: a command in flight completes (R349), and otherwise nothing happens
(DESIGN CHOICE, safe; log entry 8). -/
def noInput (s : State) : Outcome :=
  if s.rst then .next s
  else
    match s.inFlight with
    | none => .next s
    | some i => exec i s

/-- One step: the oldest input, or the engine where there is none. -/
def hostStep (s : State) : Outcome :=
  match s.inputs with
  | [] => noInput s
  | x :: rest => onInput x (s.take rest)

/-- The state in which the next step is the host's write of this command byte to CMD of the idle block. -/
def State.placeCommand (v : Byte) (s : State) : State :=
  { s with inputs := .write CMD v :: s.inputs, inFlight := none, rst := false }

end Sys2Proof.Machine
end

