-- ==== Sys2Proof/Machine/Step.lean ====
section
/-! DEFINITION. The step function and the place of the next command byte. -/
namespace Sys2Proof.Machine

/-- One step of the block (HostPort.lean). -/
def step (s : State) : Host.Outcome State Fault Refusal := hostStep s

/-- The state in which the next step runs the instruction whose bits are `w`, `nbits` of them: the host's write of its
one byte (R110) to CMD is the next input, and the block is idle and out of reset, so that it is taken. -/
def State.withFetchWord (s : State) (nbits w : Nat) : State := s.placeCommand (BitVec.ofNat 8 (w % 2 ^ nbits))

end Sys2Proof.Machine
end

