-- ==== Sys2Proof/Safety.lean ====
section
/-! DEFINITION. The terms claims are stated in: what a buffer holds, what a command leaves when it ends, the invariant
of the state, and a host that waits as R345 asks. -/
namespace Sys2Proof.Machine

/-- The buffer holds these bytes from index `i` up. -/
def State.holds (s : State) (b : Buf) (i : Nat) (vs : List Byte) : Prop :=
  ∀ k, k < vs.length → s.mem.read (b.address (i + k)) = vs[k]?

/-- Bytes `i`..`i+n-1` of the buffer are not all written: all below index `k` are, and byte `k` is not (R91). -/
def State.firstUnwritten (s : State) (b : Buf) (i n k : Nat) : Prop :=
  i ≤ k ∧ k < i + n ∧ s.mem.read (b.address k) = none ∧
    ∀ j, i ≤ j → j < k → s.mem.read (b.address j) ≠ none

/-- Every byte of memory outside the `n` bytes from host address `a` reads in `t` as it did in `s`. -/
def State.keepsOutside (s t : State) (a n : Nat) : Prop :=
  ∀ x, x < a ∨ a + n ≤ x → t.mem.read x = s.mem.read x

/-- A command begun in `s` has ended in `t` with this RESULT byte: the register file is `r` but for RESULT and DONE, BUSY
is 0, and nothing that belongs to the outside world has changed (R312). Memory is said apart. -/
structure Ended (s t : State) (result : Byte) (r : Regs) : Prop where
  regs : t.regs = { r with result := result, done := true }
  inFlight : t.inFlight = none
  rst : t.rst = s.rst
  inputs : t.inputs = s.inputs
  response : t.response = s.response

/-- The state a command leaves that has only finished with this RESULT byte (R312): RESULT, DONE and BUSY. -/
def State.endedWith (result : Byte) (s : State) : State :=
  { s with regs := { s.regs with result := result, done := true }, inFlight := none }

/-- PARSE gets past R250 and R251: legal arguments, both flags, and these bytes between them. -/
structure State.Receives (s : State) (interior : List Byte) : Prop where
  station : s.regs.localStn.len.toNat ≤ 6
  notNull : 1 ≤ s.regs.rawLen.toNat
  inRange : s.regs.rawLen.toNat ≤ 331
  startFlag : s.mem.read 0x200 = some 0x7E
  endFlag : s.mem.read (0x200 + (s.regs.rawLen.toNat - 1)) = some 0x7E
  length : interior.length = s.regs.rawLen.toNat - 2
  between : s.holds .raw 1 interior

/-- PARSE gets past R253 with this logical frame: its interior destuffs to `d`, whose whole bytes are `frame`, a frame of
a legal length. -/
structure State.ReceivesFrame (s : State) (d : List Bool) (frame : List Byte) : Prop where
  received : ∃ interior, s.Receives interior ∧ d = destuff (bits interior)
  frameBytes : frame = pack (d.take (8 * (d.length / 8)))
  legalLength : frame.length = 18 ∨ frame.length = 274

/-- The registers after R252 of a PARSE of a frame of legal length: RX_KIND cleared, LOG_LEN and DSTF_TAIL written. -/
def Regs.afterDestuff (r : Regs) (d : List Bool) : Regs :=
  { r with rxKind := 0, logLen := BitVec.ofNat 16 (d.length / 8), dstfTail := BitVec.ofNat 3 (d.length % 8) }

/-- ... and after R254: the FCS the frame carries and the one computed over the bytes before it. -/
def Regs.afterFcs (r : Regs) (d : List Bool) (frame : List Byte) : Regs :=
  { r.afterDestuff d with
    fcs := frame.getD (frame.length - 1) 0 ++ frame.getD (frame.length - 2) 0
    fcsCalc := fcsCompute (frame.take (frame.length - 2)) }

/-- ... and after R255: the decoded address field. -/
def Regs.afterAddress (r : Regs) (d : List Bool) (frame : List Byte) : Regs :=
  { r.afterFcs d frame with decDest := decSub (frame.take 7), decSrc := decSub ((frame.drop 7).take 7) }

/-- ... and after R256 on the information path. -/
def Regs.afterInfoControl (r : Regs) (d : List Bool) (frame : List Byte) : Regs :=
  { r.afterAddress d frame with
    rxCtrl0 := frame.getD 14 0
    rxCtrl1 := frame.getD 15 0
    rxNr := (frame.getD 15 0).extractLsb' 1 7
    rxPf := (frame.getD 15 0).getLsbD 0
    rxNs := (frame.getD 14 0).extractLsb' 1 7
    rxScode := 0
    rxPid := frame.getD 16 0 }

/-- ... and after R256 on the supervisory path. -/
def Regs.afterSupControl (r : Regs) (d : List Bool) (frame : List Byte) : Regs :=
  { r.afterAddress d frame with
    rxCtrl0 := frame.getD 14 0
    rxCtrl1 := frame.getD 15 0
    rxNr := (frame.getD 15 0).extractLsb' 1 7
    rxPf := (frame.getD 15 0).getLsbD 0
    rxNs := 0
    rxScode := (frame.getD 14 0).extractLsb' 2 2
    rxPid := 0 }

/-- PARSE of a state that received `frame` ends with this RESULT byte and these registers, LOG holding the frame and every
other byte of memory as before. -/
def State.ParseEnds (s : State) (frame : List Byte) (result : Byte) (r : Regs) : Prop :=
  ∃ t, exec .parse s = .next t ∧ Ended s t result r ∧ t.holds .log 0 frame ∧ s.keepsOutside t 0x400 frame.length

/-- The frame's FCS field is the one computed over the bytes before it (R254). -/
def fcsGood (frame : List Byte) : Prop :=
  frame.getD (frame.length - 1) 0 ++ frame.getD (frame.length - 2) 0 = fcsCompute (frame.take (frame.length - 2))

/-- R46, R204, R205: what a decoded station can hold. -/
structure Decoded.Legal (d : Decoded) : Prop where
  len : d.len.toNat ≤ 6
  ext : d.ext = d.ssid.getLsbD 0
  chars : ∀ c ∈ d.call.toList, c.toNat < 128

/-- R45, R256-R262: RX_KIND is 0, 1 or 2, and the RX registers of an accepted frame are fields of its control bytes. -/
structure Regs.ReceiveLegal (r : Regs) : Prop where
  kind : r.rxKind ≠ 3
  info : r.rxKind = 1 → r.rxCtrl0.getLsbD 0 = false ∧ r.rxNs = r.rxCtrl0.extractLsb' 1 7 ∧
    r.rxNr = r.rxCtrl1.extractLsb' 1 7 ∧ r.rxPf = r.rxCtrl1.getLsbD 0 ∧ r.rxScode = 0 ∧ r.rxPid = 0xF0
  sup : r.rxKind = 2 → r.rxCtrl0 ∈ [(0x01 : Byte), 0x05, 0x09, 0x0D] ∧ r.rxScode = r.rxCtrl0.extractLsb' 2 2 ∧
    r.rxNr = r.rxCtrl1.extractLsb' 1 7 ∧ r.rxPf = r.rxCtrl1.getLsbD 0 ∧ r.rxNs = 0 ∧ r.rxPid = 0

/-- R310, R311: the RESULT bytes the block writes. -/
def legalResults : List Byte :=
  [0x00, 0x11, 0x21, 0x31, 0x41, 0x51, 0x61, 0x71, 0x81, 0x12, 0x22, 0x32, 0x42, 0x52, 0x03, 0x04, 0x05, 0x06, 0x07]

/-- The invariant of the block. -/
structure Inv (s : State) : Prop where
  /-- Memory is canonical and lists buffer bytes only (R47, R81, R91). -/
  memory : s.mem.wf
  /-- RESULT holds a code and detail the block writes (R310, R311; U15). -/
  result : s.regs.result ∈ legalResults
  /-- The RX registers are legal (R45). -/
  receive : s.regs.ReceiveLegal
  /-- The DEC registers are legal (R46). -/
  decDest : s.regs.decDest.Legal
  decSrc : s.regs.decSrc.Legal
  /-- While RST is high the block is in its reset state (R340). -/
  held : s.rst = true → s.regs = Regs.reset ∧ s.mem = [] ∧ s.inFlight = none
  /-- Only a command is ever in flight: a CMD value that is none completes at once (R302). -/
  command : ∀ i, s.inFlight = some i → i.isCommand = true

/-- The input leaves a command in flight at the next one. -/
def Input.overlaps : Input → Bool
  | .issue _ => true
  | .read _ | .write _ _ | .complete | .rst _ | .powerOn => false

/-- R345: the host has waited for every completion so far and will for the rest. -/
def State.hostWaits (s : State) : Prop := s.inFlight = none ∧ ∀ x ∈ s.inputs, x.overlaps = false

/-- ASM of this TXCTL reads INFO_LEN and INFO: its frame type carries an information field (R220, R223). -/
def readsInfo (txctl : BitVec 6) : Prop :=
  ∃ ft, frameType (txctl.extractLsb' 0 3) = some ft ∧ ft.carriesInfo = true

/-- Two states agree on what ASM reads (R114, R228): INFO_LEN and the INFO bytes below it only for a frame type that
carries an information field. -/
structure SameAsmOperands (s t : State) : Prop where
  txctl : s.regs.txctl = t.regs.txctl
  txAlen : s.regs.txAlen = t.regs.txAlen
  txDest : s.regs.txDest = t.regs.txDest
  txSrc : s.regs.txSrc = t.regs.txSrc
  vs : s.regs.vs = t.regs.vs
  vr : s.regs.vr = t.regs.vr
  infoLen : readsInfo s.regs.txctl → s.regs.infoLen = t.regs.infoLen
  info : readsInfo s.regs.txctl → ∀ k, k < s.regs.infoLen.toNat → k < 255 →
    s.mem.read (0x100 + k) = t.mem.read (0x100 + k)

end Sys2Proof.Machine
end

