-- ==== Sys2Proof/Certificates/Slice0/Obligations.lean ====
section
/-! DEFINITION. The statements for the provers, in the order of OBLIGATIONS.json. Each docstring names the rules of spec/
it formalises; RESULT bytes, addresses and bounds are written out as the spec gives them. -/

open Sys2Proof Sys2Proof.Machine

/-! ### Encoding and the step -/

/-- R110, R111: the rows whose CMD[7:4] is 0, each by its CMD value. R112, R113: a CMD value with CMD[7:4] ≠ 0 is illegal;
that the illegal values decode to four constructors, told apart by the highest set bit of CMD[7:4], is the model's choice
(DESIGN CHOICE, log entry 14). -/
def Obligations.CommandBytesDecode : Prop :=
  decode [0x00] = .ok (.nop, []) ∧ decode [0x01] = .ok (.stuff, []) ∧ decode [0x02] = .ok (.destuff, []) ∧
  decode [0x03] = .ok (.fcsgen, []) ∧ decode [0x04] = .ok (.fcschk, []) ∧ decode [0x05] = .ok (.aenc, []) ∧
  decode [0x06] = .ok (.adec, []) ∧ decode [0x07] = .ok (.asm, []) ∧ decode [0x08] = .ok (.parse, []) ∧
  decode [0x09] = .ok (.incvs, []) ∧ decode [0x0A] = .ok (.incvr, []) ∧ decode [0x0F] = .ok (.srst, []) ∧
  decode [0x0B] = .ok (.reserved0b, []) ∧ decode [0x0C] = .ok (.reserved0c, []) ∧
  decode [0x0D] = .ok (.reserved0d, []) ∧ decode [0x0E] = .ok (.reserved0e, []) ∧
  decode [0x80] = .ok (.illegal80 0x80, []) ∧ decode [0x7F] = .ok (.illegal40 0x7F, []) ∧
  decode [0x2C] = .ok (.illegal20 0x2C, []) ∧ decode [0x1F] = .ok (.illegal10 0x1F, [])

/-- R112, R113: every CMD value decodes to a well-formed instruction that encodes to it, and it is a command exactly when
CMD[7:4] = 0 and OP is not one of 0xB-0xE. -/
def Obligations.EveryByteDecodesToItsRow : Prop :=
  ∀ c : Byte, (decodeByte c).wf = true ∧ encodeByte (decodeByte c) = c ∧
    ((decodeByte c).isCommand = true ↔ c.toNat < 0x10 ∧ c ∉ [(0x0B : Byte), 0x0C, 0x0D, 0x0E])

/-- R110, R111: decoding an encoded well-formed instruction gives it back, whatever follows it. -/
def Obligations.DecodeInvertsEncode : Prop :=
  ∀ (i : Instr) (rest : List Byte), i.wf = true → decode (encode i ++ rest) = .ok (i, rest)

/-- R112, R94: with the block idle and out of reset, the step that takes the host's write of a command byte to CMD is exec
of the decoded instruction, that instruction in flight; the input list is the model's own (log entry 1). -/
def Obligations.StepRunsDecodedCommand : Prop :=
  ∀ (s : State) (c : Byte) (i : Instr) (rest : List Input),
    s.rst = false → s.inFlight = none → s.inputs = .write 0x000 c :: rest → decode [c] = .ok (i, []) →
    step s = exec i { s with inputs := rest, response := none, inFlight := some i }

/-- R349 (every started command completes), in the model's own inputs (log entry 1): a command left in flight runs when
the engine completes it, and when no input is pending. -/
def Obligations.EngineCompletesCommandInFlight : Prop :=
  ∀ (s : State) (i : Instr), s.rst = false → s.inFlight = some i →
    (s.inputs = [] → step s = exec i s) ∧
    (∀ rest, s.inputs = .complete :: rest → step s = exec i { s with inputs := rest, response := none })

/-- R346: a CMD write while BUSY = 1 changes nothing but OVR. The access is an input (log entry 1). -/
def Obligations.CmdWriteWhileBusyIsDropped : Prop :=
  ∀ (s : State) (i : Instr) (v : Byte) (rest : List Input), s.rst = false → s.inFlight = some i →
    (s.inputs = .write 0x000 v :: rest ∨ s.inputs = .issue v :: rest) →
    step s = .next { s with inputs := rest, response := none, regs := { s.regs with ovr := true } }

/-- R347: any other access while BUSY = 1, but a read of STATUS, is a fault. The access is an input (log entry 1). -/
def Obligations.OtherAccessWhileBusyFaults : Prop :=
  ∀ (s : State) (i : Instr) (a : Addr) (v : Byte) (rest : List Input), s.rst = false → s.inFlight = some i →
    (a ≠ 0x001 → s.inputs = .read a :: rest → step s = .fault (.busyHazard a.toNat)) ∧
    (a ≠ 0x000 → s.inputs = .write a v :: rest → step s = .fault (.busyHazard a.toNat))

/-- R33, R345: a read of STATUS answers, busy or not, BUSY in bit 0, DONE in bit 1, OVR in bit 2 and 0 above. -/
def Obligations.StatusReadShowsFlags : Prop :=
  ∀ (s : State) (rest : List Input), s.rst = false → s.inputs = .read 0x001 :: rest →
    ∃ v : Byte, step s = .next { s with inputs := rest, response := some v } ∧
      v.getLsbD 0 = s.inFlight.isSome ∧ v.getLsbD 1 = s.regs.done ∧ v.getLsbD 2 = s.regs.ovr ∧
      ∀ k, 3 ≤ k → v.getLsbD k = false

/-! ### Reset -/

/-- R340-R343: RST going high, or power-on, in any state and with any command in flight, leaves the reset registers,
every buffer byte unwritten and no command in flight. -/
def Obligations.HardResetFromAnyState : Prop :=
  ∀ (s : State) (rest : List Input),
    (s.inputs = .rst true :: rest → step s = .next { State.reset with rst := true, inputs := rest }) ∧
    (s.inputs = .powerOn :: rest → step s = .next { State.reset with rst := s.rst, inputs := rest })

/-- R341, R342, R31, R81: what every host address reads as after a hard reset: TXCTL 0x20, TX_ALEN 0x0E, every other
register and reserved address 0, and every buffer byte a fault. -/
def Obligations.HostReadsAfterReset : Prop :=
  ∀ a : Addr, memRead State.reset a =
    if a = 0x020 then .ok 0x20
    else if a = 0x021 then .ok 0x0E
    else if (0x100 ≤ a.toNat ∧ a.toNat ≤ 0x1FE) ∨ (0x200 ≤ a.toNat ∧ a.toNat ≤ 0x34A) ∨
        (0x400 ≤ a.toNat ∧ a.toNat ≤ 0x511) then .error (.unwrittenRead a.toNat)
    else .ok 0x00

/-- R340, with the inputs of log entries 1 and 10: while RST is high reads return 0x00, writes are dropped and the engine does nothing, until RST goes low. -/
def Obligations.HeldInResetIgnoresAccesses : Prop :=
  ∀ (s : State) (a : Addr) (v : Byte) (rest : List Input), s.rst = true →
    (s.inputs = .read a :: rest → step s = .next { s with inputs := rest, response := some 0x00 }) ∧
    (s.inputs = .write a v :: rest ∨ s.inputs = .issue v :: rest ∨ s.inputs = .complete :: rest →
      step s = .next { s with inputs := rest, response := none }) ∧
    (s.inputs = .rst false :: rest → step s = .next { s with inputs := rest, response := none, rst := false })

/-! ### The host port -/

/-- R80, R81, R90: an access of an idle block: a read changes nothing but its own answer, and faults exactly as `memRead`
does; a write to any address but CMD is `memWrite`. -/
def Obligations.IdleHostAccess : Prop :=
  ∀ (s : State) (a : Addr) (rest : List Input), s.rst = false → s.inFlight = none →
    (∀ v, s.inputs = .read a :: rest → memRead s a = .ok v →
      step s = .next { s with inputs := rest, response := some v }) ∧
    (∀ f, s.inputs = .read a :: rest → memRead s a = .error f → step s = .fault f) ∧
    (∀ v, a ≠ 0x000 → s.inputs = .write a v :: rest →
      step s = .next (memWrite a v { s with inputs := rest, response := none }))

/-- R31, R85: what the host reads at each register address, a 16-bit register low byte first, reserved bits 0. -/
def Obligations.RegisterMapReads : Prop :=
  ∀ s : State,
    memRead s 0x002 = .ok s.regs.result ∧ memRead s 0x003 = .ok (if s.regs.doneIe then 1 else 0) ∧
    memRead s 0x008 = .ok (s.regs.vs.setWidth 8) ∧ memRead s 0x009 = .ok (s.regs.vr.setWidth 8) ∧
    memRead s 0x010 = .ok (s.regs.infoLen.extractLsb' 0 8) ∧ memRead s 0x011 = .ok (s.regs.infoLen.extractLsb' 8 8) ∧
    memRead s 0x012 = .ok (s.regs.logLen.extractLsb' 0 8) ∧ memRead s 0x013 = .ok (s.regs.logLen.extractLsb' 8 8) ∧
    memRead s 0x014 = .ok (s.regs.rawLen.extractLsb' 0 8) ∧ memRead s 0x015 = .ok (s.regs.rawLen.extractLsb' 8 8) ∧
    memRead s 0x016 = .ok (s.regs.rawBits.extractLsb' 0 8) ∧ memRead s 0x017 = .ok (s.regs.rawBits.extractLsb' 8 8) ∧
    memRead s 0x018 = .ok (s.regs.dstfTail.setWidth 8) ∧
    memRead s 0x01A = .ok (s.regs.fcs.extractLsb' 0 8) ∧ memRead s 0x01B = .ok (s.regs.fcs.extractLsb' 8 8) ∧
    memRead s 0x01C = .ok (s.regs.fcsCalc.extractLsb' 0 8) ∧ memRead s 0x01D = .ok (s.regs.fcsCalc.extractLsb' 8 8) ∧
    memRead s 0x020 = .ok (s.regs.txctl.setWidth 8) ∧ memRead s 0x021 = .ok s.regs.txAlen ∧
    memRead s 0x022 = .ok s.regs.txDest.len ∧ memRead s 0x023 = .ok s.regs.txDest.ssid ∧
    memRead s 0x02A = .ok s.regs.txSrc.len ∧ memRead s 0x02B = .ok s.regs.txSrc.ssid ∧
    memRead s 0x032 = .ok s.regs.localStn.len ∧ memRead s 0x033 = .ok s.regs.localStn.ssid ∧
    (∀ i : Fin 6, memRead s (0x024 + BitVec.ofNat 16 i) = .ok (s.regs.txDest.call[i]) ∧
      memRead s (0x02C + BitVec.ofNat 16 i) = .ok (s.regs.txSrc.call[i]) ∧
      memRead s (0x034 + BitVec.ofNat 16 i) = .ok (s.regs.localStn.call[i]) ∧
      memRead s (0x063 + BitVec.ofNat 16 i) = .ok (s.regs.decDest.call[i]) ∧
      memRead s (0x06C + BitVec.ofNat 16 i) = .ok (s.regs.decSrc.call[i])) ∧
    (∀ i : Fin 14, memRead s (0x040 + BitVec.ofNat 16 i) = .ok (s.regs.addr[i])) ∧
    memRead s 0x050 = .ok (s.regs.rxKind.setWidth 8) ∧ memRead s 0x051 = .ok (s.regs.rxNs.setWidth 8) ∧
    memRead s 0x052 = .ok (s.regs.rxNr.setWidth 8) ∧ memRead s 0x053 = .ok (if s.regs.rxPf then 1 else 0) ∧
    memRead s 0x054 = .ok (s.regs.rxScode.setWidth 8) ∧ memRead s 0x055 = .ok s.regs.rxCtrl0 ∧
    memRead s 0x056 = .ok s.regs.rxCtrl1 ∧ memRead s 0x057 = .ok s.regs.rxPid ∧
    memRead s 0x060 = .ok s.regs.decDest.len ∧ memRead s 0x061 = .ok s.regs.decDest.ssid ∧
    memRead s 0x062 = .ok (if s.regs.decDest.ext then 1 else 0) ∧
    memRead s 0x069 = .ok s.regs.decSrc.len ∧ memRead s 0x06A = .ok s.regs.decSrc.ssid ∧
    memRead s 0x06B = .ok (if s.regs.decSrc.ext then 1 else 0)

/-- R88, R90: a host write changes what the host reads at its own address only, and no buffer byte and no pin besides. -/
def Obligations.HostWriteReachesOnlyItsByte : Prop :=
  ∀ (s : State) (a : Addr) (v : Byte),
    (∀ b, b ≠ a → memRead (memWrite a v s) b = memRead s b) ∧
    (∀ x, x ≠ a.toNat → (memWrite a v s).mem.read x = s.mem.read x) ∧
    (memWrite a v s).inFlight = s.inFlight ∧ (memWrite a v s).rst = s.rst ∧
    (memWrite a v s).inputs = s.inputs ∧ (memWrite a v s).response = s.response

/-- R32, R33, R35, R41, R47: a writable byte reads back what the host wrote, TXCTL without bits 7:6 and IRQ_EN without bits
7:1; a write to STATUS clears DONE and OVR where it has a 1 and changes nothing else. -/
def Obligations.WritableBytesReadBack : Prop :=
  ∀ (s : State) (a : Addr) (v : Byte),
    ((0x010 ≤ a.toNat ∧ a.toNat ≤ 0x017) ∨ a.toNat = 0x01A ∨ a.toNat = 0x01B ∨ (0x021 ≤ a.toNat ∧ a.toNat ≤ 0x039) ∨
      (0x100 ≤ a.toNat ∧ a.toNat ≤ 0x1FE) ∨ (0x200 ≤ a.toNat ∧ a.toNat ≤ 0x34A) ∨
      (0x400 ≤ a.toNat ∧ a.toNat ≤ 0x511) → memRead (memWrite a v s) a = .ok v) ∧
    memRead (memWrite 0x020 v s) 0x020 = .ok (v &&& 0x3F) ∧
    memRead (memWrite 0x003 v s) 0x003 = .ok (v &&& 0x01) ∧
    memWrite 0x001 v s =
      { s with regs := { s.regs with done := s.regs.done && !v.getLsbD 1, ovr := s.regs.ovr && !v.getLsbD 2 } }

/-- R83, R84: a write to a read-only register or a reserved address changes no state; a reserved address and CMD read 0. -/
def Obligations.ReadOnlyAndReservedIgnoreWrites : Prop :=
  ∀ (s : State) (a : Addr) (v : Byte),
    (a.toNat ∈ [0x002, 0x008, 0x009, 0x018, 0x01C, 0x01D] ∨ (0x040 ≤ a.toNat ∧ a.toNat ≤ 0x04D) ∨
      (0x050 ≤ a.toNat ∧ a.toNat ≤ 0x057) ∨ (0x060 ≤ a.toNat ∧ a.toNat ≤ 0x071) → memWrite a v s = s) ∧
    ((0x004 ≤ a.toNat ∧ a.toNat ≤ 0x007) ∨ (0x00A ≤ a.toNat ∧ a.toNat ≤ 0x00F) ∨ a.toNat = 0x019 ∨
      (0x01E ≤ a.toNat ∧ a.toNat ≤ 0x01F) ∨ (0x03A ≤ a.toNat ∧ a.toNat ≤ 0x03F) ∨
      (0x04E ≤ a.toNat ∧ a.toNat ≤ 0x04F) ∨ (0x058 ≤ a.toNat ∧ a.toNat ≤ 0x05F) ∨
      (0x072 ≤ a.toNat ∧ a.toNat ≤ 0x0FF) ∨ a.toNat = 0x1FF ∨ (0x34B ≤ a.toNat ∧ a.toNat ≤ 0x3FF) ∨
      0x512 ≤ a.toNat → memWrite a v s = s ∧ memRead s a = .ok 0x00) ∧
    memRead s 0x000 = .ok 0x00

/-- R315: IRQ is DONE and DONE_IE; it is high after a command completes with DONE_IE = 1 and after the host sets DONE_IE
while DONE = 1, and low after the host clears DONE or DONE_IE and after a hard reset. -/
def Obligations.InterruptFollowsDoneAndEnable : Prop :=
  (∀ s : State, s.irq = (s.regs.done && s.regs.doneIe)) ∧
  (∀ (i : Instr) (s t : State), i ≠ .srst → exec i s = .next t → t.irq = s.regs.doneIe) ∧
  (∀ s t : State, exec .srst s = .next t → t.irq = false) ∧
  (∀ (s : State) (v : Byte), (memWrite 0x003 v s).irq = (s.regs.done && v.getLsbD 0)) ∧
  (∀ (s : State) (v : Byte), v.getLsbD 1 = true → (memWrite 0x001 v s).irq = false) ∧
  (∀ (s t : State) (rest : List Input), s.inputs = .rst true :: rest ∨ s.inputs = .powerOn :: rest →
    step s = .next t → t.irq = false)

/-! ### Bit channel -/

/-- R152 (1): no six one-bits in a row in a stuffed sequence, its zero pad, and the flag bits on its two sides. -/
def Obligations.StuffNeverSendsSixOnes : Prop :=
  ∀ (q : List Bool) (p : Nat),
    ¬ List.replicate 6 true <:+: (false :: (stuff q ++ List.replicate p false ++ [false]))

/-- R152 (2), (3): destuffing inverts stuffing, and keeps a zero pad after it. -/
def Obligations.DestuffInvertsStuffWithPadding : Prop :=
  ∀ (q : List Bool) (p : Nat),
    destuff (stuff q ++ List.replicate p false) = q ++ List.replicate p false

/-- R152 (4), (5): the length bounds of both primitives, the upper one reached by all ones. -/
def Obligations.StuffLengthBounds : Prop :=
  ∀ q : List Bool, q.length ≤ (stuff q).length ∧ (stuff q).length ≤ q.length + q.length / 5 ∧
    (destuff q).length ≤ q.length ∧
    ∀ n, (stuff (List.replicate n true)).length = n + n / 5

/-- R86: bits() lists each byte least-significant bit first; pack() puts bit k at bit k mod 8 of byte k div 8, in the
fewest bytes, every other bit 0; pack inverts bits. -/
def Obligations.PackAndBitsAreLsbFirst : Prop :=
  (∀ s : List Byte, (bits s).length = 8 * s.length) ∧
  (∀ (s : List Byte) (i j : Nat), i < s.length → j < 8 → (bits s)[8 * i + j]? = some ((s.getD i 0).getLsbD j)) ∧
  (∀ q : List Bool, (pack q).length = (q.length + 7) / 8) ∧
  (∀ (q : List Bool) (k : Nat), ((pack q).getD (k / 8) 0).getLsbD (k % 8) = q.getD k false) ∧
  (∀ s : List Byte, pack (bits s) = s)

/-- R153: STUFF in full: the length check; the stuffed bits of LOG in RAW with RAW_LEN and RAW_BITS, every other byte and
register kept; the fault on an unwritten LOG byte. -/
def Obligations.StuffCommand : Prop :=
  ∀ s : State,
    (274 < s.regs.logLen.toNat → exec .stuff s =
      .next (s.endedWith 0x21)) ∧
    (∀ bytes : List Byte, bytes.length = s.regs.logLen.toNat → s.regs.logLen.toNat ≤ 274 → s.holds .log 0 bytes →
      ∃ t, exec .stuff s = .next t ∧
        Ended s t 0x00 { s.regs with
          rawLen := BitVec.ofNat 16 (pack (stuff (bits bytes))).length
          rawBits := BitVec.ofNat 16 (stuff (bits bytes)).length } ∧
        t.holds .raw 0 (pack (stuff (bits bytes))) ∧
        s.keepsOutside t 0x200 (pack (stuff (bits bytes))).length ∧
        (pack (stuff (bits bytes))).length ≤ 329 ∧ (stuff (bits bytes)).length ≤ 2630) ∧
    (∀ k, s.regs.logLen.toNat ≤ 274 → s.firstUnwritten .log 0 s.regs.logLen.toNat k →
      exec .stuff s = .fault (.unwrittenRead (0x400 + k)))

/-- R154, R156: DESTUFF in full: the bit-count check; the whole bytes of the destuffed bits in LOG with LOG_LEN and
DSTF_TAIL; the overflow; the fault on an unwritten RAW byte. -/
def Obligations.DestuffCommand : Prop :=
  ∀ s : State,
    (2648 < s.regs.rawBits.toNat → exec .destuff s =
      .next (s.endedWith 0x21)) ∧
    (∀ (bytes : List Byte) (d : List Bool), s.regs.rawBits.toNat ≤ 2648 →
      bytes.length = (s.regs.rawBits.toNat + 7) / 8 → s.holds .raw 0 bytes →
      d = destuff ((bits bytes).take s.regs.rawBits.toNat) →
      (d.length / 8 ≤ 274 → ∃ t, exec .destuff s = .next t ∧
        Ended s t 0x00 { s.regs with
          logLen := BitVec.ofNat 16 (d.length / 8), dstfTail := BitVec.ofNat 3 (d.length % 8) } ∧
        t.holds .log 0 (pack (d.take (8 * (d.length / 8)))) ∧ s.keepsOutside t 0x400 (d.length / 8)) ∧
      (274 < d.length / 8 → ∃ t, exec .destuff s = .next t ∧
        Ended s t 0x32 { s.regs with logLen := 0, dstfTail := 0 } ∧
        t.holds .log 0 (pack (d.take 2192)) ∧ s.keepsOutside t 0x400 274)) ∧
    (∀ k, s.regs.rawBits.toNat ≤ 2648 → s.firstUnwritten .raw 0 ((s.regs.rawBits.toNat + 7) / 8) k →
      exec .destuff s = .fault (.unwrittenRead (0x200 + k)))

/-- R154 (corner cases): DESTUFF after STUFF restores LOG and LOG_LEN with no bit left over; with RAW_BITS set to
8·RAW_LEN it restores the same and leaves the pad bits over. -/
def Obligations.StuffThenDestuffRestoresLog : Prop :=
  ∀ (s t : State) (bytes : List Byte), bytes.length = s.regs.logLen.toNat → s.regs.logLen.toNat ≤ 274 →
    s.holds .log 0 bytes → exec .stuff s = .next t →
    (∃ u, exec .destuff t = .next u ∧ u.regs.result = 0x00 ∧ u.regs.logLen = s.regs.logLen ∧
      u.regs.dstfTail = 0 ∧ u.holds .log 0 bytes) ∧
    (∃ u, exec .destuff { t with regs := { t.regs with rawBits := 8 * t.regs.rawLen } } = .next u ∧
      u.regs.result = 0x00 ∧ u.regs.logLen = s.regs.logLen ∧
      u.regs.dstfTail.toNat = 8 * t.regs.rawLen.toNat - t.regs.rawBits.toNat ∧ u.holds .log 0 bytes)

/-! ### Frame check sequence -/

/-- R185: FCSGEN in full. -/
def Obligations.FcsGenerateCommand : Prop :=
  ∀ s : State,
    (274 < s.regs.logLen.toNat → exec .fcsgen s =
      .next (s.endedWith 0x21)) ∧
    (∀ bytes : List Byte, bytes.length = s.regs.logLen.toNat → s.regs.logLen.toNat ≤ 274 → s.holds .log 0 bytes →
      exec .fcsgen s = .next { s with
        regs := { s.regs with
          fcs := (crcX25 bytes).reverse, fcsCalc := (crcX25 bytes).reverse, result := 0x00, done := true }
        inFlight := none }) ∧
    (∀ k, s.regs.logLen.toNat ≤ 274 → s.firstUnwritten .log 0 s.regs.logLen.toNat k →
      exec .fcsgen s = .fault (.unwrittenRead (0x400 + k)))

/-- R186: FCSCHK in full: OK or IntegrityError by FCS, FCS_CALC written in both. -/
def Obligations.FcsCheckCommand : Prop :=
  ∀ s : State,
    (274 < s.regs.logLen.toNat → exec .fcschk s =
      .next (s.endedWith 0x21)) ∧
    (∀ bytes : List Byte, bytes.length = s.regs.logLen.toNat → s.regs.logLen.toNat ≤ 274 → s.holds .log 0 bytes →
      exec .fcschk s = .next { s with
        regs := { s.regs with
          fcsCalc := (crcX25 bytes).reverse
          result := if s.regs.fcs = (crcX25 bytes).reverse then 0x00 else 0x03
          done := true }
        inFlight := none }) ∧
    (∀ k, s.regs.logLen.toNat ≤ 274 → s.firstUnwritten .log 0 s.regs.logLen.toNat k →
      exec .fcschk s = .fault (.unwrittenRead (0x400 + k)))

/-- R180, R181 on the spec's derived vectors V30-V33 (95_test_vectors.md). -/
def Obligations.CrcKnownValues : Prop :=
  crcX25 [0x31, 0x32, 0x33, 0x34, 0x35, 0x36, 0x37, 0x38, 0x39] = 0x906E ∧
  fcsCompute [0x31, 0x32, 0x33, 0x34, 0x35, 0x36, 0x37, 0x38, 0x39] = 0x7609 ∧
  fcsCompute [] = 0x0000 ∧ crcX25 [0x00] = 0xF078 ∧ fcsCompute [0x00] = 0x1E0F ∧
  crcX25 [0xFF] = 0xFF00 ∧ fcsCompute [0xFF] = 0x00FF

/-- R187 (1), (2): the FCS of a string verifies against it, and against no string that differs from it in one bit. -/
def Obligations.FcsDetectsSingleBitError : Prop :=
  (∀ s : List Byte, fcsVerify s (fcsCompute s) = true) ∧
  ∀ (s s' : List Byte) (k : Nat), s'.length = s.length → k < 8 * s.length →
    (∀ j, j ≠ k → (bits s')[j]? = (bits s)[j]?) → (bits s')[k]? ≠ (bits s)[k]? →
    fcsVerify s' (fcsCompute s) = false

/-- R187 (2): a change confined to one span of at most 16 consecutive bits is always detected. -/
def Obligations.FcsDetectsBurstError : Prop :=
  ∀ (s s' : List Byte) (k : Nat), s'.length = s.length → s' ≠ s →
    (∀ j, j < k ∨ k + 16 ≤ j → (bits s')[j]? = (bits s)[j]?) →
    fcsVerify s' (fcsCompute s) = false

/-! ### Address codec -/

/-- R200-R203: AENC in full: the length check, or the fourteen ADDR bytes. -/
def Obligations.AddressEncodeCommand : Prop :=
  ∀ s : State,
    (6 < s.regs.txDest.len.toNat ∨ 6 < s.regs.txSrc.len.toNat → exec .aenc s =
      .next (s.endedWith 0x41)) ∧
    (s.regs.txDest.len.toNat ≤ 6 → s.regs.txSrc.len.toNat ≤ 6 →
      ∃ a : Vector Byte 14, exec .aenc s =
          .next { s with regs := { s.regs with addr := a, result := 0x00, done := true }, inFlight := none } ∧
        (∀ i : Fin 6,
          a[i.val] = (if i.val < s.regs.txDest.len.toNat then s.regs.txDest.call[i] else 0x20) <<< 1 ∧
          a[7 + i.val] = (if i.val < s.regs.txSrc.len.toNat then s.regs.txSrc.call[i] else 0x20) <<< 1) ∧
        a[6] = s.regs.txDest.ssid &&& 0xFE ∧ a[13] = (s.regs.txSrc.ssid &&& 0xFE) ||| 1)

/-- R204, R205: `d` is the decoding of the seven bytes from index `o` of `bytes`. -/
def Sys2Proof.Machine.Decoded.Reads (d : Decoded) (bytes : List Byte) (o : Nat) : Prop :=
  (∀ i : Fin 6, d.call[i] = bytes.getD (o + i.val) 0 >>> 1) ∧
  d.ssid = bytes.getD (o + 6) 0 ∧ d.ext = (bytes.getD (o + 6) 0).getLsbD 0 ∧ d.len.toNat ≤ 6 ∧
  (∀ i, d.len.toNat ≤ i → i < 6 → bytes.getD (o + i) 0 >>> 1 = 0x20) ∧
  (0 < d.len.toNat → bytes.getD (o + (d.len.toNat - 1)) 0 >>> 1 ≠ 0x20)

/-- R204-R206: ADEC in full: the two length checks in their order, the decoded registers, the fault. -/
def Obligations.AddressDecodeCommand : Prop :=
  ∀ s : State,
    (274 < s.regs.logLen.toNat → exec .adec s =
      .next (s.endedWith 0x21)) ∧
    (s.regs.logLen.toNat < 14 → exec .adec s =
      .next (s.endedWith 0x81)) ∧
    (∀ bytes : List Byte, bytes.length = 14 → 14 ≤ s.regs.logLen.toNat → s.regs.logLen.toNat ≤ 274 →
      s.holds .log 0 bytes →
      ∃ dest src : Decoded, exec .adec s = .next { s with
          regs := { s.regs with decDest := dest, decSrc := src, result := 0x00, done := true }, inFlight := none } ∧
        dest.Reads bytes 0 ∧ src.Reads bytes 7) ∧
    (∀ k, 14 ≤ s.regs.logLen.toNat → s.regs.logLen.toNat ≤ 274 → s.firstUnwritten .log 0 14 k →
      exec .adec s = .fault (.unwrittenRead (0x400 + k)))

/-- R208: decoding gives back the characters, the length and the octet exactly when the three conditions hold. -/
def Obligations.AddressDecodeInvertsEncode : Prop :=
  ∀ (t : Station) (ext : Bool), t.len.toNat ≤ 6 →
    (((∀ i : Fin 6, i.val < t.len.toNat → (decSub (encSub t ext)).call[i] = t.call[i]) ∧
        (decSub (encSub t ext)).len = t.len ∧ (decSub (encSub t ext)).ssid = t.ssid) ↔
      (∀ i : Fin 6, i.val < t.len.toNat → t.call[i].toNat < 0x80) ∧
        (∀ i : Fin 6, i.val + 1 = t.len.toNat → t.call[i] ≠ 0x20) ∧ t.ssid.getLsbD 0 = ext)

/-! ### Assembler -/

/-- R220: ASM's argument checks in their order, each writing only RESULT and DONE. -/
def Obligations.AsmArgumentChecks : Prop :=
  ∀ (s : State) (ft cl : Nat),
    ft = (s.regs.txctl.extractLsb' 0 3).toNat → cl = (s.regs.txctl.extractLsb' 4 2).toNat →
    (6 ≤ ft → exec .asm s = .next (s.endedWith 0x51)) ∧
    (ft ≤ 5 → cl ≠ (if ft = 5 then 1 else 2) → exec .asm s = .next (s.endedWith 0x61)) ∧
    (ft ≤ 5 → cl = (if ft = 5 then 1 else 2) →
      (s.regs.txAlen ≠ 14 → exec .asm s = .next (s.endedWith 0x71)) ∧
      (s.regs.txAlen = 14 → (6 < s.regs.txDest.len.toNat ∨ 6 < s.regs.txSrc.len.toNat) →
        exec .asm s = .next (s.endedWith 0x41)) ∧
      (s.regs.txAlen = 14 → s.regs.txDest.len.toNat ≤ 6 → s.regs.txSrc.len.toNat ≤ 6 → ft = 0 ∨ ft = 5 →
        255 < s.regs.infoLen.toNat → exec .asm s = .next (s.endedWith 0x21)))

/-- R220: the arguments of ASM are legal for this frame type. -/
structure Sys2Proof.Machine.Regs.AsmLegal (r : Regs) (ft : FrameType) : Prop where
  type : frameType (r.txctl.extractLsb' 0 3) = some ft
  clen : r.txctl.extractLsb' 4 2 = match ft with | .info => 2 | .sup _ => 2 | .ui => 1
  alen : r.txAlen = 14
  dest : r.txDest.len.toNat ≤ 6
  src : r.txSrc.len.toNat ≤ 6
  payload : payloadLen ft r ≤ 255

/-- R221-R228: ASM with legal arguments: the frame in LOG, its raw form in RAW, ADDR, FCS, the lengths, VS one further
for an I frame only; every other register and byte kept; the fault on an unwritten INFO byte it reads. -/
def Obligations.AsmAssembles : Prop :=
  ∀ (s : State) (ft : FrameType), s.regs.AsmLegal ft →
    (∀ (payload body frame raw : List Byte), payload.length = payloadLen ft s.regs → s.holds .info 0 payload →
      body = frameBody ft payload s.regs →
      frame = body ++ [(fcsCompute body).extractLsb' 0 8, (fcsCompute body).extractLsb' 8 8] →
      raw = [0x7E] ++ pack (stuff (bits frame)) ++ [0x7E] →
      ∃ t, exec .asm s = .next t ∧
        Ended s t 0x00 { s.regs with
          addr := addrRegs (encAddr s.regs.txDest s.regs.txSrc)
          logLen := BitVec.ofNat 16 frame.length
          fcs := fcsCompute body
          rawLen := BitVec.ofNat 16 raw.length
          rawBits := BitVec.ofNat 16 (stuff (bits frame)).length
          vs := if ft = .info then s.regs.vs + 1 else s.regs.vs } ∧
        t.holds .log 0 frame ∧ t.holds .raw 0 raw ∧
        (∀ x, (x < 0x200 ∨ 0x200 + raw.length ≤ x) → (x < 0x400 ∨ 0x400 + frame.length ≤ x) →
          t.mem.read x = s.mem.read x)) ∧
    (∀ k, s.firstUnwritten .info 0 (payloadLen ft s.regs) k →
      exec .asm s = .fault (.unwrittenRead (0x100 + k)))

/-- R118-R121, R222-R224: the bytes of the logical frame ASM builds, at their offsets. -/
def Obligations.AsmFrameLayout : Prop :=
  ∀ (r : Regs) (ft : FrameType) (payload frame : List Byte), payload.length ≤ 255 →
    frame = withFcs (frameBody ft payload r) →
    (∀ i, i < 14 → frame[i]? = some ((addrRegs (encAddr r.txDest r.txSrc)).toList.getD i 0)) ∧
    (ft = .info → frame.length = 274 ∧ frame[14]? = some (r.vs ++ 0#1) ∧
      frame[15]? = some (r.vr ++ BitVec.ofBool (r.txctl.getLsbD 3)) ∧ frame[16]? = some 0xF0 ∧
      ∀ i, i < 255 → frame[17 + i]? = some (payload.getD i 0)) ∧
    (∀ ss, ft = .sup ss → frame.length = 18 ∧ frame[14]? = some (0x0#4 ++ ss ++ 0x1#2) ∧
      frame[15]? = some (r.vr ++ BitVec.ofBool (r.txctl.getLsbD 3))) ∧
    (ft = .ui → frame.length = 273 ∧
      frame[14]? = some (0x0#3 ++ BitVec.ofBool (r.txctl.getLsbD 3) ++ 0x3#4) ∧ frame[15]? = some 0xF0 ∧
      ∀ i, i < 255 → frame[16 + i]? = some (payload.getD i 0)) ∧
    frame[frame.length - 2]? = some ((fcsCompute (frame.take (frame.length - 2))).extractLsb' 0 8) ∧
    frame[frame.length - 1]? = some ((fcsCompute (frame.take (frame.length - 2))).extractLsb' 8 8)

/-- R229: the bounds on ASM's output by frame type. -/
def Obligations.AsmOutputLengths : Prop :=
  ∀ (s t : State) (ft : FrameType), frameType (s.regs.txctl.extractLsb' 0 3) = some ft →
    exec .asm s = .next t → t.regs.result = 0x00 →
    (ft = .info → t.regs.logLen = 274 ∧ 2192 ≤ t.regs.rawBits.toNat ∧ t.regs.rawBits.toNat ≤ 2630 ∧
      276 ≤ t.regs.rawLen.toNat ∧ t.regs.rawLen.toNat ≤ 331) ∧
    (∀ ss, ft = .sup ss → t.regs.logLen = 18 ∧ 144 ≤ t.regs.rawBits.toNat ∧ t.regs.rawBits.toNat ≤ 172 ∧
      20 ≤ t.regs.rawLen.toNat ∧ t.regs.rawLen.toNat ≤ 24) ∧
    (ft = .ui → t.regs.logLen = 273 ∧ 2184 ≤ t.regs.rawBits.toNat ∧ t.regs.rawBits.toNat ≤ 2620 ∧
      275 ≤ t.regs.rawLen.toNat ∧ t.regs.rawLen.toNat ≤ 330)

/-- R228: a failing ASM changes nothing but RESULT and DONE (and BUSY, R312). -/
def Obligations.FailingAsmWritesNothing : Prop :=
  ∀ s t : State, exec .asm s = .next t → t.regs.result ≠ 0x00 →
    t = s.endedWith t.regs.result ∧
      t.regs.result ∈ [(0x51 : Byte), 0x61, 0x71, 0x41, 0x21]

/-- R114: what ASM does depends on its operands only: two states that agree on them (for an S frame INFO_LEN and INFO are
none, R220, R223) give the same fault, or next states that agree on every register ASM writes and on the frame in LOG and
RAW. -/
def Obligations.AsmDependsOnlyOnItsOperands : Prop :=
  ∀ s t : State, SameAsmOperands s t →
    (∀ f, exec .asm s = .fault f → exec .asm t = .fault f) ∧
    (∀ s', exec .asm s = .next s' → ∃ t', exec .asm t = .next t' ∧ t'.regs.result = s'.regs.result ∧
      t'.regs.vs = s'.regs.vs ∧
      (s'.regs.result = 0x00 → t'.regs.addr = s'.regs.addr ∧ t'.regs.fcs = s'.regs.fcs ∧
        t'.regs.logLen = s'.regs.logLen ∧ t'.regs.rawLen = s'.regs.rawLen ∧ t'.regs.rawBits = s'.regs.rawBits ∧
        (∀ k, k < s'.regs.logLen.toNat → t'.mem.read (0x400 + k) = s'.mem.read (0x400 + k)) ∧
        (∀ k, k < s'.regs.rawLen.toNat → t'.mem.read (0x200 + k) = s'.mem.read (0x200 + k))))

/-! ### Parser -/

/-- R250: RX_KIND is cleared, then the argument checks in their order, each writing nothing more. -/
def Obligations.ParseArgumentChecks : Prop :=
  ∀ s : State,
    (6 < s.regs.localStn.len.toNat → exec .parse s = .next ({ s with regs := { s.regs with rxKind := 0 } }.endedWith 0x41)) ∧
    (s.regs.localStn.len.toNat ≤ 6 →
      (331 < s.regs.rawLen.toNat → exec .parse s = .next ({ s with regs := { s.regs with rxKind := 0 } }.endedWith 0x21)) ∧
      (s.regs.rawLen.toNat = 0 → exec .parse s = .next ({ s with regs := { s.regs with rxKind := 0 } }.endedWith 0x31)))

/-- R251: the two flag bytes, the first checked first; an unwritten RAW byte that is read is a fault. That a byte after the
check that ends the command is not read is the model's reading (DEDUCED, log entry 5). -/
def Obligations.ParseFlagDetection : Prop :=
  ∀ (s : State) (n : Nat), n = s.regs.rawLen.toNat →
    s.regs.localStn.len.toNat ≤ 6 → 1 ≤ n → n ≤ 331 →
    (s.mem.read 0x200 = none → exec .parse s = .fault (.unwrittenRead 0x200)) ∧
    (∀ b, s.mem.read 0x200 = some b → b ≠ 0x7E → exec .parse s = .next ({ s with regs := { s.regs with rxKind := 0 } }.endedWith 0x12)) ∧
    (s.mem.read 0x200 = some 0x7E →
      (s.mem.read (0x200 + (n - 1)) = none → exec .parse s = .fault (.unwrittenRead (0x200 + (n - 1)))) ∧
      (∀ b, s.mem.read (0x200 + (n - 1)) = some b → b ≠ 0x7E → exec .parse s = .next ({ s with regs := { s.regs with rxKind := 0 } }.endedWith 0x22)) ∧
      (∀ k, s.mem.read (0x200 + (n - 1)) = some 0x7E → s.firstUnwritten .raw 1 (n - 2) k →
        exec .parse s = .fault (.unwrittenRead (0x200 + k))))

/-- R252, R253: the interior is destuffed into LOG; an overflow and a length that is neither 18 nor 274 are framing
errors, and nothing beyond LOG, LOG_LEN, DSTF_TAIL and RX_KIND is written. That 275 whole bytes are OVERFLOW and not
BAD_LENGTH is the model's reading (DEDUCED, log entry 6). -/
def Obligations.ParseLengthClassification : Prop :=
  ∀ (s : State) (interior : List Byte) (d : List Bool), s.Receives interior → d = destuff (bits interior) →
    (274 < d.length / 8 → ∃ t, exec .parse s = .next t ∧
      Ended s t 0x32 { s.regs with rxKind := 0, logLen := 0, dstfTail := 0 } ∧
      t.holds .log 0 (pack (d.take 2192)) ∧ s.keepsOutside t 0x400 274) ∧
    (d.length / 8 ≤ 274 → d.length / 8 ≠ 18 → d.length / 8 ≠ 274 → ∃ t, exec .parse s = .next t ∧
      Ended s t 0x42 { s.regs with
        rxKind := 0, logLen := BitVec.ofNat 16 (d.length / 8), dstfTail := BitVec.ofNat 3 (d.length % 8) } ∧
      t.holds .log 0 (pack (d.take (8 * (d.length / 8)))) ∧ s.keepsOutside t 0x400 (d.length / 8))

/-- R254: a frame whose FCS does not match ends in IntegrityError with FCS and FCS_CALC written and no field extracted. -/
def Obligations.ParseIntegrityCheck : Prop :=
  ∀ (s : State) (d : List Bool) (frame : List Byte), s.ReceivesFrame d frame → ¬ fcsGood frame →
    s.ParseEnds frame 0x03 (s.regs.afterFcs d frame)

/-- R255, R207: a frame with a good FCS for another station ends in AddressMismatch, its address field decoded. -/
def Obligations.ParseAddressMismatch : Prop :=
  ∀ (s : State) (d : List Bool) (frame : List Byte), s.ReceivesFrame d frame → fcsGood frame →
    frame.take 7 ≠ encSub s.regs.localStn false → s.ParseEnds frame 0x04 (s.regs.afterAddress d frame)

/-- R257-R259: the rejections of the information path in their order, with the RX fields written and nothing delivered. -/
def Obligations.ParseInfoRejections : Prop :=
  ∀ (s : State) (d : List Bool) (frame : List Byte),
    s.ReceivesFrame d frame → fcsGood frame → frame.take 7 = encSub s.regs.localStn false → frame.length = 274 →
    ((frame.getD 14 0).getLsbD 0 = true → s.ParseEnds frame 0x52 (s.regs.afterInfoControl d frame)) ∧
    ((frame.getD 14 0).getLsbD 0 = false → (frame.getD 14 0).toNat / 2 ≠ s.regs.vr.toNat →
      s.ParseEnds frame 0x07 (s.regs.afterInfoControl d frame)) ∧
    ((frame.getD 14 0).getLsbD 0 = false → (frame.getD 14 0).toNat / 2 = s.regs.vr.toNat → frame.getD 16 0 ≠ 0xF0 →
      s.ParseEnds frame 0x05 (s.regs.afterInfoControl d frame))

/-- R260: an I frame that passes every check is delivered: the 255 information bytes in INFO, INFO_LEN 255, VR one
further, RX_KIND 1. -/
def Obligations.ParseAcceptsInfoFrame : Prop :=
  ∀ (s : State) (d : List Bool) (frame : List Byte),
    s.ReceivesFrame d frame → fcsGood frame → frame.take 7 = encSub s.regs.localStn false → frame.length = 274 →
    (frame.getD 14 0).getLsbD 0 = false → (frame.getD 14 0).toNat / 2 = s.regs.vr.toNat → frame.getD 16 0 = 0xF0 →
    ∃ t, exec .parse s = .next t ∧
      Ended s t 0x00 { s.regs.afterInfoControl d frame with infoLen := 255, vr := s.regs.vr + 1, rxKind := 1 } ∧
      t.holds .log 0 frame ∧ (∀ i, i < 255 → t.mem.read (0x100 + i) = frame[17 + i]?) ∧
      (∀ x, (x < 0x100 ∨ 0x1FF ≤ x) → (x < 0x400 ∨ 0x512 ≤ x) → t.mem.read x = s.mem.read x)

/-- R261, R262: an S-length frame is accepted exactly for the four legal first control bytes, RX_KIND then 2. -/
def Obligations.ParseSupervisoryFrame : Prop :=
  ∀ (s : State) (d : List Bool) (frame : List Byte),
    s.ReceivesFrame d frame → fcsGood frame → frame.take 7 = encSub s.regs.localStn false → frame.length = 18 →
    (frame.getD 14 0 ∈ [(0x01 : Byte), 0x05, 0x09, 0x0D] →
      s.ParseEnds frame 0x00 { s.regs.afterSupControl d frame with rxKind := 2 }) ∧
    (frame.getD 14 0 ∉ [(0x01 : Byte), 0x05, 0x09, 0x0D] →
      s.ParseEnds frame 0x06 (s.regs.afterSupControl d frame))

/-- R263, R264 (5), (6): whatever its outcome, PARSE keeps the transmit and station registers, VS, RAW_LEN, RAW_BITS,
IRQ_EN, OVR, RAW and every byte outside INFO and LOG; it writes INFO, INFO_LEN and VR only when it accepts an I frame. -/
def Obligations.ParseWritesOnlyReceiveState : Prop :=
  ∀ s t : State, exec .parse s = .next t →
    t.regs.vs = s.regs.vs ∧ t.regs.txctl = s.regs.txctl ∧ t.regs.txAlen = s.regs.txAlen ∧
    t.regs.txDest = s.regs.txDest ∧ t.regs.txSrc = s.regs.txSrc ∧ t.regs.localStn = s.regs.localStn ∧
    t.regs.addr = s.regs.addr ∧ t.regs.rawLen = s.regs.rawLen ∧ t.regs.rawBits = s.regs.rawBits ∧
    t.regs.doneIe = s.regs.doneIe ∧ t.regs.ovr = s.regs.ovr ∧
    (∀ x, (x < 0x100 ∨ 0x1FF ≤ x) → (x < 0x400 ∨ 0x512 ≤ x) → t.mem.read x = s.mem.read x) ∧
    (t.regs.rxKind ≠ 1 → t.regs.vr = s.regs.vr ∧ t.regs.infoLen = s.regs.infoLen ∧
      ∀ x, x < 0x400 → t.mem.read x = s.mem.read x) ∧
    (t.regs.rxKind = 1 ∨ t.regs.rxKind = 2 ↔ t.regs.result = 0x00)

/-- R266 (1), the round trip: an I frame that ASM assembled, received by a station that LOCAL names and that expects its
sequence number, is accepted and delivers the payload ASM read, zero-padded to 255 bytes. -/
def Obligations.AssembleThenParseDelivers : Prop :=
  ∀ (s t u : State) (payload : List Byte),
    s.regs.txctl.extractLsb' 0 3 = 0 → payload.length = s.regs.infoLen.toNat → s.holds .info 0 payload →
    exec .asm s = .next t → t.regs.result = 0x00 →
    u.regs.rawLen = t.regs.rawLen → (∀ k, k < t.regs.rawLen.toNat → u.mem.read (0x200 + k) = t.mem.read (0x200 + k)) →
    u.regs.localStn.len.toNat ≤ 6 → encSub u.regs.localStn false = encSub s.regs.txDest false →
    u.regs.vr = s.regs.vs →
    ∃ w, exec .parse u = .next w ∧ w.regs.result = 0x00 ∧ w.regs.rxKind = 1 ∧ w.regs.infoLen = 255 ∧
      w.regs.vr = u.regs.vr + 1 ∧ w.holds .info 0 (payload ++ List.replicate (255 - payload.length) 0)

/-- R266 (2), logical corruption: an I frame with one byte of its information field changed, stuffed and framed again,
always gives IntegrityError. -/
def Obligations.CorruptedInfoByteFailsIntegrity : Prop :=
  ∀ (u : State) (body : List Byte) (k : Nat) (v : Byte) (frame raw : List Byte),
    body.length = 272 → frame = withFcs body → 17 ≤ k → k ≤ 271 → some v ≠ frame[k]? →
    raw = rawFrame (frame.set k v) → u.regs.localStn.len.toNat ≤ 6 → u.regs.rawLen.toNat = raw.length →
    u.holds .raw 0 raw →
    ∃ w, exec .parse u = .next w ∧ w.regs.result = 0x03 ∧ w.regs.rxKind = 0 ∧ w.regs.vr = u.regs.vr

/-! ### Link state and control -/

/-- R300, R291, R292: NOP, INCVS and INCVR, on every state. -/
def Obligations.NopAndIncrements : Prop :=
  ∀ s : State,
    exec .nop s = .next (s.endedWith 0x00) ∧
    exec .incvs s = .next { s with
      regs := { s.regs with vs := BitVec.ofNat 7 ((s.regs.vs.toNat + 1) % 128), result := 0x00, done := true }
      inFlight := none } ∧
    exec .incvr s = .next { s with
      regs := { s.regs with vr := BitVec.ofNat 7 ((s.regs.vr.toNat + 1) % 128), result := 0x00, done := true }
      inFlight := none }

/-- R301: SRST returns every register to its reset value, then completes; the buffers keep what they hold. -/
def Obligations.SoftReset : Prop :=
  ∀ s : State,
    exec .srst s = .next { s with
      regs := { State.reset.regs with result := 0x00, done := true }, inFlight := none }

/-- R302: every CMD value that is no command completes at once with RESULT 0x11 and changes nothing else. -/
def Obligations.NonCommandsCompleteIllegal : Prop :=
  ∀ (s : State) (c : Byte) (i : Instr),
    i ∈ [Instr.reserved0b, .reserved0c, .reserved0d, .reserved0e, .illegal80 c, .illegal40 c, .illegal20 c, .illegal10 c] →
    exec i s = .next (s.endedWith 0x11)

/-- R290, R293: on every step VS and VR keep their values, but for the four modifiers and the resets: VS goes one further
exactly when INCVS runs or ASM assembles an I frame, VR when INCVR runs or PARSE accepts one. -/
def Obligations.CountersChangeOnlyByTheirModifiers : Prop :=
  (∀ (i : Instr) (s t : State), exec i s = .next t → i ≠ .srst →
    (t.regs.vs = if i = .incvs ∨ (i = .asm ∧ s.regs.txctl.extractLsb' 0 3 = 0 ∧ t.regs.result = 0x00)
      then s.regs.vs + 1 else s.regs.vs) ∧
    (t.regs.vr = if i = .incvr ∨ (i = .parse ∧ t.regs.rxKind = 1) then s.regs.vr + 1 else s.regs.vr)) ∧
  (∀ (s : State) (a : Addr) (v : Byte),
    (memWrite a v s).regs.vs = s.regs.vs ∧ (memWrite a v s).regs.vr = s.regs.vr) ∧
  (∀ s t : State, step s = .next t →
    (t.regs.vs = s.regs.vs ∨ t.regs.vs = s.regs.vs + 1 ∨ t.regs.vs = 0) ∧
    (t.regs.vr = s.regs.vr ∨ t.regs.vr = s.regs.vr + 1 ∨ t.regs.vr = 0) ∧
    (t.regs.vs ≠ s.regs.vs → t.regs.vr ≠ s.regs.vr → t.regs.vs = 0 ∧ t.regs.vr = 0))

/-! ### The whole machine -/

/-- R310-R312: every command that ends has written a legal RESULT byte, set DONE and left the block idle; only SRST writes
OVR or IRQ_EN; none touches the outside world's state. -/
def Obligations.EveryCommandFinishes : Prop :=
  ∀ (i : Instr) (s t : State), exec i s = .next t →
    t.regs.result ∈ [(0x00 : Byte), 0x11, 0x21, 0x31, 0x41, 0x51, 0x61, 0x71, 0x81, 0x12, 0x22, 0x32, 0x42, 0x52,
      0x03, 0x04, 0x05, 0x06, 0x07] ∧
    t.regs.done = true ∧ t.inFlight = none ∧ t.rst = s.rst ∧ t.inputs = s.inputs ∧ t.response = s.response ∧
    (i ≠ .srst → t.regs.ovr = s.regs.ovr ∧ t.regs.doneIe = s.regs.doneIe)

/-- R91: no command is refused, and a command faults only on an unwritten byte within a buffer's capacity. -/
def Obligations.CommandsFaultOnlyOnUnwrittenBytes : Prop :=
  ∀ (i : Instr) (s : State),
    (∀ r, exec i s ≠ .refused r) ∧
    (∀ f, exec i s = .fault f → ∃ a, f = .unwrittenRead a ∧ s.mem.read a = none ∧
      ((0x100 ≤ a ∧ a ≤ 0x1FE) ∨ (0x200 ≤ a ∧ a ≤ 0x34A) ∨ (0x400 ≤ a ∧ a ≤ 0x511)))

/-- R345, R347: a host that waits for every completion never meets the hazard fault, goes on waiting, and never causes
OVR. -/
def Obligations.WaitingHostMeetsNoHazard : Prop :=
  ∀ s : State, s.hostWaits →
    (∀ a, step s ≠ .fault (.busyHazard a)) ∧
    (∀ t, step s = .next t → t.hostWaits ∧ (t.regs.ovr = true → s.regs.ovr = true))

/-- Every step keeps the invariant: canonical memory, legal RESULT, RX and DEC registers, the reset state while RST is
high, only commands in flight (the model's reading, DEDUCED, log entry 7). -/
def Obligations.StepKeepsInvariant : Prop :=
  ∀ s t : State, Inv s → step s = .next t → Inv t

/-- The state after reset (RST low there: DESIGN CHOICE, log entry 3) meets the invariant. -/
def Obligations.ResetMeetsInvariant : Prop := Inv State.reset

/-! ### A command left in flight -/

/-- R48, R302, in the model's own input `issue` (log entries 1, 4 and 7): with the block idle and RST low, a CMD write that
the host does not wait for leaves a command in flight (BUSY = 1) and changes nothing else; a CMD value that is no command
completes at once with RESULT 0x11. -/
def Obligations.IssueLeavesCommandInFlight : Prop :=
  ∀ (s : State) (c : Byte) (i : Instr) (rest : List Input),
    s.rst = false → s.inFlight = none → s.inputs = .issue c :: rest → decode [c] = .ok (i, []) →
    (c.toNat < 0x10 → c ∉ [(0x0B : Byte), 0x0C, 0x0D, 0x0E] →
      step s = .next { s with inputs := rest, response := none, inFlight := some i }) ∧
    (0x10 ≤ c.toNat ∨ c ∈ [(0x0B : Byte), 0x0C, 0x0D, 0x0E] →
      step s = .next (State.endedWith 0x11 { s with inputs := rest, response := none }))
end

