-- ==== Sys2Proof/Laws/Bits.lean ====
section
/-! SUPPORT. The small lemmas of the serialisation between bytes and bits (R86) and of the two codec primitives (R150,
R151): their equations on each bit, and their lengths. -/
namespace Sys2Proof.Machine

@[simp] theorem byteBits_length (b : Byte) : (byteBits b).length = 8 := rfl
@[simp] theorem bits_nil : bits [] = [] := rfl
@[simp] theorem bits_cons (b : Byte) (s : List Byte) : bits (b :: s) = byteBits b ++ bits s := rfl
@[simp] theorem bits_append (s t : List Byte) : bits (s ++ t) = bits s ++ bits t := List.flatMap_append

@[simp] theorem packBytes_length (n : Nat) (q : List Bool) : (packBytes n q).length = n := by
  induction n generalizing q with
  | zero => rfl
  | succ n ih => simp [packBytes, ih]

theorem bitsToNat_lt (q : List Bool) : bitsToNat q < 2 ^ q.length := by
  induction q with
  | nil => simp [bitsToNat]
  | cons b q ih =>
    rw [bitsToNat, List.length_cons, Nat.pow_succ]
    cases b <;> simp <;> omega

@[simp] theorem bits_length (s : List Byte) : (bits s).length = 8 * s.length := by
  induction s with
  | nil => rfl
  | cons b s ih => rw [bits_cons, List.length_append, byteBits_length, ih, List.length_cons]; omega

@[simp] theorem pack_length (q : List Bool) : (pack q).length = byteCount q.length := packBytes_length _ _

/-- The whole bytes of a sequence that has that many. -/
theorem bytesOf_length {n : Nat} {d : List Bool} (h : 8 * n ≤ d.length) : (bytesOf n d).length = n := by
  rw [bytesOf, pack_length, List.length_take, byteCount]; omega

/-- Bit `k` of the number is bit `k` of the sequence. -/
theorem bitsToNat_testBit (q : List Bool) (k : Nat) : (bitsToNat q).testBit k = q.getD k false := by
  induction q generalizing k with
  | nil => simp [bitsToNat]
  | cons b q ih =>
    rw [bitsToNat]
    cases k with
    | zero => cases b <;> simp [Nat.testBit_zero]
    | succ k =>
      rw [Nat.testBit_succ, show (b.toNat + 2 * bitsToNat q) / 2 = bitsToNat q by cases b <;> simp; omega, ih]
      simp

/-- Bit `k` of a byte made of bits. -/
theorem byteOfBits_getLsbD (q : List Bool) (k : Nat) (h : k < 8) : (byteOfBits q).getLsbD k = q.getD k false := by
  unfold byteOfBits
  rw [BitVec.getLsbD_ofNat, bitsToNat_testBit]
  simp [h]

@[simp] theorem stuffFrom_nil (run : Nat) : stuffFrom run [] = [] := by unfold stuffFrom; rfl
@[simp] theorem stuffFrom_zero (run : Nat) (q : List Bool) : stuffFrom run (false :: q) = false :: stuffFrom 0 q := rfl
theorem stuffFrom_one (run : Nat) (q : List Bool) : stuffFrom run (true :: q) =
    if run + 1 = 5 then true :: false :: stuffFrom 0 q else true :: stuffFrom (run + 1) q := rfl

@[simp] theorem destuffFrom_nil (run : Nat) : destuffFrom run [] = [] := by unfold destuffFrom; rfl
@[simp] theorem destuffFrom_one (run : Nat) (q : List Bool) :
    destuffFrom run (true :: q) = true :: destuffFrom (min (run + 1) 6) q := rfl
theorem destuffFrom_zero (run : Nat) (q : List Bool) : destuffFrom run (false :: q) =
    if run = 5 then destuffFrom 0 q else false :: destuffFrom 0 q := rfl

end Sys2Proof.Machine
end

