-- ==== Sys2Proof/Laws/State.lean ====
section
/-! SUPPORT. What each named update of State leaves in each field, so that no later proof unfolds a record update. -/
namespace Sys2Proof.Machine

variable (s : State)

/-! ### completed -/

@[simp] theorem State.completed_regs (c : Completion) : (s.completed c).regs = { s.regs with result := c.byte, done := true } := rfl
@[simp] theorem State.completed_mem (c : Completion) : (s.completed c).mem = s.mem := rfl
@[simp] theorem State.completed_inFlight (c : Completion) : (s.completed c).inFlight = none := rfl
@[simp] theorem State.completed_rst (c : Completion) : (s.completed c).rst = s.rst := rfl
@[simp] theorem State.completed_inputs (c : Completion) : (s.completed c).inputs = s.inputs := rfl
@[simp] theorem State.completed_response (c : Completion) : (s.completed c).response = s.response := rfl

/-! ### bufWrite -/

@[simp] theorem State.bufWrite_regs (b : Buf) (i : Nat) (vs : List Byte) : (s.bufWrite b i vs).regs = s.regs := rfl
@[simp] theorem State.bufWrite_mem (b : Buf) (i : Nat) (vs : List Byte) : (s.bufWrite b i vs).mem = s.mem.write (b.address i) vs := rfl
@[simp] theorem State.bufWrite_inFlight (b : Buf) (i : Nat) (vs : List Byte) : (s.bufWrite b i vs).inFlight = s.inFlight := rfl
@[simp] theorem State.bufWrite_rst (b : Buf) (i : Nat) (vs : List Byte) : (s.bufWrite b i vs).rst = s.rst := rfl
@[simp] theorem State.bufWrite_inputs (b : Buf) (i : Nat) (vs : List Byte) : (s.bufWrite b i vs).inputs = s.inputs := rfl
@[simp] theorem State.bufWrite_response (b : Buf) (i : Nat) (vs : List Byte) : (s.bufWrite b i vs).response = s.response := rfl

/-! ### start -/

@[simp] theorem State.start_regs (i : Instr) : (s.start i).regs = s.regs := rfl
@[simp] theorem State.start_mem (i : Instr) : (s.start i).mem = s.mem := rfl
@[simp] theorem State.start_inFlight (i : Instr) : (s.start i).inFlight = some i := rfl
@[simp] theorem State.start_rst (i : Instr) : (s.start i).rst = s.rst := rfl
@[simp] theorem State.start_inputs (i : Instr) : (s.start i).inputs = s.inputs := rfl
@[simp] theorem State.start_response (i : Instr) : (s.start i).response = s.response := rfl

/-! ### overrun -/

@[simp] theorem State.overrun_regs : (s.overrun).regs = { s.regs with ovr := true } := rfl
@[simp] theorem State.overrun_mem : (s.overrun).mem = s.mem := rfl
@[simp] theorem State.overrun_inFlight : (s.overrun).inFlight = s.inFlight := rfl
@[simp] theorem State.overrun_rst : (s.overrun).rst = s.rst := rfl
@[simp] theorem State.overrun_inputs : (s.overrun).inputs = s.inputs := rfl
@[simp] theorem State.overrun_response : (s.overrun).response = s.response := rfl

/-! ### softReset -/

@[simp] theorem State.softReset_regs : (s.softReset).regs = Regs.reset := rfl
@[simp] theorem State.softReset_mem : (s.softReset).mem = s.mem := rfl
@[simp] theorem State.softReset_inFlight : (s.softReset).inFlight = s.inFlight := rfl
@[simp] theorem State.softReset_rst : (s.softReset).rst = s.rst := rfl
@[simp] theorem State.softReset_inputs : (s.softReset).inputs = s.inputs := rfl
@[simp] theorem State.softReset_response : (s.softReset).response = s.response := rfl

/-! ### hardReset -/

@[simp] theorem State.hardReset_regs : (s.hardReset).regs = Regs.reset := rfl
@[simp] theorem State.hardReset_mem : (s.hardReset).mem = [] := rfl
@[simp] theorem State.hardReset_inFlight : (s.hardReset).inFlight = none := rfl
@[simp] theorem State.hardReset_rst : (s.hardReset).rst = s.rst := rfl
@[simp] theorem State.hardReset_inputs : (s.hardReset).inputs = s.inputs := rfl
@[simp] theorem State.hardReset_response : (s.hardReset).response = none := rfl

/-! ### respond -/

@[simp] theorem State.respond_regs (v : Byte) : (s.respond v).regs = s.regs := rfl
@[simp] theorem State.respond_mem (v : Byte) : (s.respond v).mem = s.mem := rfl
@[simp] theorem State.respond_inFlight (v : Byte) : (s.respond v).inFlight = s.inFlight := rfl
@[simp] theorem State.respond_rst (v : Byte) : (s.respond v).rst = s.rst := rfl
@[simp] theorem State.respond_inputs (v : Byte) : (s.respond v).inputs = s.inputs := rfl
@[simp] theorem State.respond_response (v : Byte) : (s.respond v).response = some v := rfl

/-! ### take -/

@[simp] theorem State.take_regs (rest : List Input) : (s.take rest).regs = s.regs := rfl
@[simp] theorem State.take_mem (rest : List Input) : (s.take rest).mem = s.mem := rfl
@[simp] theorem State.take_inFlight (rest : List Input) : (s.take rest).inFlight = s.inFlight := rfl
@[simp] theorem State.take_rst (rest : List Input) : (s.take rest).rst = s.rst := rfl
@[simp] theorem State.take_inputs (rest : List Input) : (s.take rest).inputs = rest := rfl
@[simp] theorem State.take_response (rest : List Input) : (s.take rest).response = none := rfl

/-! ### placeCommand -/

@[simp] theorem State.placeCommand_regs (v : Byte) : (s.placeCommand v).regs = s.regs := rfl
@[simp] theorem State.placeCommand_mem (v : Byte) : (s.placeCommand v).mem = s.mem := rfl
@[simp] theorem State.placeCommand_inFlight (v : Byte) : (s.placeCommand v).inFlight = none := rfl
@[simp] theorem State.placeCommand_rst (v : Byte) : (s.placeCommand v).rst = false := rfl
@[simp] theorem State.placeCommand_inputs (v : Byte) : (s.placeCommand v).inputs = .write CMD v :: s.inputs := rfl
@[simp] theorem State.placeCommand_response (v : Byte) : (s.placeCommand v).response = s.response := rfl

/-! ### rxCleared -/

@[simp] theorem State.rxCleared_regs : (s.rxCleared).regs = { s.regs with rxKind := 0 } := rfl
@[simp] theorem State.rxCleared_mem : (s.rxCleared).mem = s.mem := rfl
@[simp] theorem State.rxCleared_inFlight : (s.rxCleared).inFlight = s.inFlight := rfl
@[simp] theorem State.rxCleared_rst : (s.rxCleared).rst = s.rst := rfl
@[simp] theorem State.rxCleared_inputs : (s.rxCleared).inputs = s.inputs := rfl
@[simp] theorem State.rxCleared_response : (s.rxCleared).response = s.response := rfl

/-! ### writeDec -/

@[simp] theorem State.writeDec_regs (a : List Byte) : (s.writeDec a).regs = { s.regs with decDest := decSub (a.take 7), decSrc := decSub ((a.drop 7).take 7) } := rfl
@[simp] theorem State.writeDec_mem (a : List Byte) : (s.writeDec a).mem = s.mem := rfl
@[simp] theorem State.writeDec_inFlight (a : List Byte) : (s.writeDec a).inFlight = s.inFlight := rfl
@[simp] theorem State.writeDec_rst (a : List Byte) : (s.writeDec a).rst = s.rst := rfl
@[simp] theorem State.writeDec_inputs (a : List Byte) : (s.writeDec a).inputs = s.inputs := rfl
@[simp] theorem State.writeDec_response (a : List Byte) : (s.writeDec a).response = s.response := rfl

/-! ### rxInfo -/

@[simp] theorem State.rxInfo_mem (frame : List Byte) : (s.rxInfo frame).mem = s.mem := rfl
@[simp] theorem State.rxInfo_inFlight (frame : List Byte) : (s.rxInfo frame).inFlight = s.inFlight := rfl
@[simp] theorem State.rxInfo_rst (frame : List Byte) : (s.rxInfo frame).rst = s.rst := rfl
@[simp] theorem State.rxInfo_inputs (frame : List Byte) : (s.rxInfo frame).inputs = s.inputs := rfl
@[simp] theorem State.rxInfo_response (frame : List Byte) : (s.rxInfo frame).response = s.response := rfl

/-! ### rxSup -/

@[simp] theorem State.rxSup_mem (frame : List Byte) : (s.rxSup frame).mem = s.mem := rfl
@[simp] theorem State.rxSup_inFlight (frame : List Byte) : (s.rxSup frame).inFlight = s.inFlight := rfl
@[simp] theorem State.rxSup_rst (frame : List Byte) : (s.rxSup frame).rst = s.rst := rfl
@[simp] theorem State.rxSup_inputs (frame : List Byte) : (s.rxSup frame).inputs = s.inputs := rfl
@[simp] theorem State.rxSup_response (frame : List Byte) : (s.rxSup frame).response = s.response := rfl

/-! ### deliver -/

@[simp] theorem State.deliver_regs (frame : List Byte) : (s.deliver frame).regs = { s.regs with infoLen := BitVec.ofNat 16 Config.INFO_CAP, vr := incr s.regs.vr, rxKind := 1 } := rfl
@[simp] theorem State.deliver_mem (frame : List Byte) : (s.deliver frame).mem = s.mem.write Buf.info.base ((frame.drop 17).take Config.INFO_CAP) := rfl
@[simp] theorem State.deliver_inFlight (frame : List Byte) : (s.deliver frame).inFlight = s.inFlight := rfl
@[simp] theorem State.deliver_rst (frame : List Byte) : (s.deliver frame).rst = s.rst := rfl
@[simp] theorem State.deliver_inputs (frame : List Byte) : (s.deliver frame).inputs = s.inputs := rfl
@[simp] theorem State.deliver_response (frame : List Byte) : (s.deliver frame).response = s.response := rfl

/-! ### stuffed -/

@[simp] theorem State.stuffed_regs (bytes : List Byte) : (s.stuffed bytes).regs = { s.regs with
      rawLen := BitVec.ofNat 16 (pack (stuff (bits bytes))).length, rawBits := BitVec.ofNat 16 (stuff (bits bytes)).length } := rfl
@[simp] theorem State.stuffed_mem (bytes : List Byte) : (s.stuffed bytes).mem = s.mem.write Buf.raw.base (pack (stuff (bits bytes))) := rfl
@[simp] theorem State.stuffed_inFlight (bytes : List Byte) : (s.stuffed bytes).inFlight = s.inFlight := rfl
@[simp] theorem State.stuffed_rst (bytes : List Byte) : (s.stuffed bytes).rst = s.rst := rfl
@[simp] theorem State.stuffed_inputs (bytes : List Byte) : (s.stuffed bytes).inputs = s.inputs := rfl
@[simp] theorem State.stuffed_response (bytes : List Byte) : (s.stuffed bytes).response = s.response := rfl

/-! ### assembled -/

@[simp] theorem State.assembled_inFlight (ft : FrameType) (payload : List Byte) : (s.assembled ft payload).inFlight = s.inFlight := rfl
@[simp] theorem State.assembled_rst (ft : FrameType) (payload : List Byte) : (s.assembled ft payload).rst = s.rst := rfl
@[simp] theorem State.assembled_inputs (ft : FrameType) (payload : List Byte) : (s.assembled ft payload).inputs = s.inputs := rfl
@[simp] theorem State.assembled_response (ft : FrameType) (payload : List Byte) : (s.assembled ft payload).response = s.response := rfl

/-! ### logDestuffed and setRst, whose fields depend on a condition -/

@[simp] theorem State.logDestuffed_inFlight (d : List Bool) : (s.logDestuffed d).inFlight = s.inFlight := by
  unfold State.logDestuffed; split <;> rfl
@[simp] theorem State.logDestuffed_rst (d : List Bool) : (s.logDestuffed d).rst = s.rst := by
  unfold State.logDestuffed; split <;> rfl
@[simp] theorem State.logDestuffed_inputs (d : List Bool) : (s.logDestuffed d).inputs = s.inputs := by
  unfold State.logDestuffed; split <;> rfl
@[simp] theorem State.logDestuffed_response (d : List Bool) : (s.logDestuffed d).response = s.response := by
  unfold State.logDestuffed; split <;> rfl

/-- R156 with room for every whole byte. -/
theorem State.logDestuffed_fits {d : List Bool} (h : wholeBytes d ≤ Config.LOG_CAP) :
    s.logDestuffed d = { s.bufWrite .log 0 (bytesOf (wholeBytes d) d) with
      regs := { s.regs with
        logLen := BitVec.ofNat 16 (wholeBytes d), dstfTail := BitVec.ofNat 3 (d.length % 8) } } := by
  unfold State.logDestuffed; rw [if_neg (by omega)]

/-- R156 on overflow. -/
theorem State.logDestuffed_overflow {d : List Bool} (h : Config.LOG_CAP < wholeBytes d) :
    s.logDestuffed d = { s.bufWrite .log 0 (bytesOf Config.LOG_CAP d) with
      regs := { s.regs with logLen := 0, dstfTail := 0 } } := by
  unfold State.logDestuffed; rw [if_pos h]

@[simp] theorem State.setRst_high : s.setRst true = { s.hardReset with rst := true } := rfl
@[simp] theorem State.setRst_low : s.setRst false = { s with rst := false } := rfl

end Sys2Proof.Machine
end

