-- ==== Sys2Proof/Laws/Memory.lean ====
section
/-! SUPPORT. Memory: what a read gives after a write, that a write keeps the canonical form, and what the buffer reads of
R91 answer. -/
namespace Sys2Proof.Machine

/-! ### Reading back a write -/

@[simp] theorem Memory.read_nil (a : Nat) : Memory.read [] a = none := rfl

/-- The read, with the comparison as `==`. -/
theorem Memory.read_eq_find (m : Memory) (a : Nat) : m.read a = (m.find? fun c => c.1 == a).map Prod.snd := by
  have : (fun c : Host.Cell => Nat.beq c.1 a) = fun c => c.1 == a := by
    funext c; rw [Bool.eq_iff_iff]; simp
  rw [Memory.read, this]

theorem Memory.read_append (m n : Memory) (a : Nat) :
    Memory.read (m ++ n) a = (Memory.read m a).or (Memory.read n a) := by
  simp only [Memory.read_eq_find]
  rw [List.find?_append]
  cases m.find? (fun c => c.1 == a) <;> simp

/-- A filter that keeps every cell of address `a` does not change what `a` reads as. -/
theorem Memory.read_filter_keep (m : Memory) (p : Host.Cell → Bool) (a : Nat) (h : ∀ c : Host.Cell, c.1 = a → p c = true) :
    Memory.read (m.filter p) a = Memory.read m a := by
  simp only [Memory.read_eq_find]
  rw [List.find?_filter]
  congr 2
  funext c
  by_cases hc : c.1 = a
  · simp [h c hc, hc]
  · simp [hc]

/-- A filter that drops every cell of address `a` leaves `a` unwritten. -/
theorem Memory.read_filter_drop (m : Memory) (p : Host.Cell → Bool) (a : Nat) (h : ∀ c : Host.Cell, c.1 = a → p c = false) :
    Memory.read (m.filter p) a = none := by
  simp only [Memory.read_eq_find]
  rw [Option.map_eq_none_iff, List.find?_eq_none]
  intro c hc
  rw [List.mem_filter] at hc
  by_contra hca
  have := h c (by simpa using hca)
  simp [this] at hc

theorem cellsAt_read (a : Nat) (vs : List Byte) (x : Nat) :
    Memory.read (cellsAt a vs) x = if a ≤ x then vs[x - a]? else none := by
  induction vs generalizing a with
  | nil => simp [cellsAt]
  | cons v vs ih =>
    simp only [Memory.read_eq_find] at ih ⊢
    rw [cellsAt, List.find?_cons]
    by_cases hx : a = x
    · subst hx; simp
    · have : ((a, v).1 == x) = false := by simpa using hx
      rw [this]
      simp only [ih]
      by_cases hle : a ≤ x
      · rw [if_pos (by omega), if_pos hle, show x - a = (x - (a + 1)) + 1 by omega, List.getElem?_cons_succ]
      · rw [if_neg (by omega), if_neg hle]

/-- Outside the bytes stored, every address reads as before. -/
theorem Memory.read_write_outside (m : Memory) (a : Nat) (vs : List Byte) (x : Nat) (h : x < a ∨ a + vs.length ≤ x) :
    Memory.read (m.write a vs) x = Memory.read m x := by
  unfold Memory.write
  rw [Memory.read_append, Memory.read_append, cellsAt_read]
  have hmid : (if a ≤ x then vs[x - a]? else none) = none := by
    split
    · rw [List.getElem?_eq_none]; omega
    · rfl
  rw [hmid, Option.or_none]
  rcases h with h | h
  · rw [Memory.read_filter_keep _ _ _ (by rintro c rfl; simpa using h),
      Memory.read_filter_drop _ _ _ (by rintro c rfl; simp; omega), Option.or_none]
  · rw [Memory.read_filter_drop _ _ _ (by rintro c rfl; simp; omega),
      Memory.read_filter_keep _ _ _ (by rintro c rfl; simpa using h), Option.none_or]

/-- Inside them, an address reads as the byte stored there. -/
theorem Memory.read_write_inside (m : Memory) (a : Nat) (vs : List Byte) (k : Nat) (h : k < vs.length) :
    Memory.read (m.write a vs) (a + k) = vs[k]? := by
  unfold Memory.write
  rw [Memory.read_append, Memory.read_append, cellsAt_read, if_pos (by omega), Nat.add_sub_cancel_left,
    Memory.read_filter_drop _ _ _ (by rintro c hc; simp; omega), List.getElem?_eq_getElem h]
  rfl

/-! ### The canonical form -/

/-- R81: an address is some buffer byte's. -/
def inBuffers (a : Nat) : Bool := Buf.all.any fun b => b.holds a

theorem inBuffers_address {b : Buf} {i : Nat} (h : i < b.cap) : inBuffers (b.address i) = true := by
  rw [inBuffers, List.any_eq_true]
  exact ⟨b, by cases b <;> simp [Buf.all], by simp [Buf.holds, Buf.address, h]⟩

theorem mem_cellsAt {a : Nat} {vs : List Byte} {c : Host.Cell} (h : c ∈ cellsAt a vs) :
    a ≤ c.1 ∧ c.1 < a + vs.length := by
  induction vs generalizing a with
  | nil => simp [cellsAt] at h
  | cons v vs ih =>
    rw [cellsAt, List.mem_cons] at h
    rcases h with rfl | h
    · simp
    · have := ih h; simp only [List.length_cons]; omega

theorem cellsAt_pairwise (a : Nat) (vs : List Byte) : List.Pairwise (fun c d => c.1 < d.1) (cellsAt a vs) := by
  induction vs generalizing a with
  | nil => simp [cellsAt]
  | cons v vs ih =>
    rw [cellsAt, List.pairwise_cons]
    exact ⟨fun c hc => by have := mem_cellsAt hc; simp only; omega, ih (a + 1)⟩

/-- A store of bytes that all stand in buffers keeps the canonical form. -/
theorem Memory.write_wf {m : Memory} (hm : m.wf) (a : Nat) (vs : List Byte)
    (hin : ∀ k, k < vs.length → inBuffers (a + k) = true) : (m.write a vs).wf := by
  obtain ⟨hsort, hbuf⟩ := hm
  rw [List.all_eq_true] at hbuf
  refine ⟨?_, ?_⟩
  · unfold Memory.write
    rw [List.pairwise_append, List.pairwise_append]
    refine ⟨⟨hsort.filter _, cellsAt_pairwise a vs, ?_⟩, hsort.filter _, ?_⟩
    · intro c hc d hd
      rw [List.mem_filter, decide_eq_true_eq] at hc
      exact lt_of_lt_of_le hc.2 (mem_cellsAt hd).1
    · intro c hc d hd
      rw [List.mem_filter, decide_eq_true_eq] at hd
      rw [List.mem_append] at hc
      rcases hc with hc | hc
      · rw [List.mem_filter, decide_eq_true_eq] at hc; omega
      · have := mem_cellsAt hc; omega
  · rw [List.all_eq_true]
    intro c hc
    unfold Memory.write at hc
    rw [List.mem_append, List.mem_append] at hc
    rcases hc with (hc | hc) | hc
    · exact hbuf c (List.mem_of_mem_filter hc)
    · have h := mem_cellsAt hc
      have := hin (c.1 - a) (by omega)
      rwa [show a + (c.1 - a) = c.1 by omega] at this
    · exact hbuf c (List.mem_of_mem_filter hc)

/-- A store of at most a buffer's capacity, from an index that leaves room for it, keeps the canonical form. -/
theorem State.bufWrite_wf {s : State} (hm : s.mem.wf) (b : Buf) (i : Nat) (vs : List Byte) (h : i + vs.length ≤ b.cap) :
    (s.bufWrite b i vs).mem.wf :=
  Memory.write_wf hm _ _ fun k hk => by
    rw [show b.address i + k = b.address (i + k) by unfold Buf.address; omega]
    exact inBuffers_address (by omega)

@[simp] theorem Memory.wf_nil : Memory.wf [] := ⟨List.Pairwise.nil, rfl⟩

theorem State.reset_mem_wf : State.reset.mem.wf := Memory.wf_nil

/-! ### Buffer reads and writes -/

theorem State.bufRead_ok {s : State} {b : Buf} {i : Nat} {v : Byte} :
    s.bufRead b i = .ok v ↔ s.mem.read (b.address i) = some v := by
  unfold State.bufRead; cases s.mem.read (b.address i) <;> simp

theorem State.bufRead_error {s : State} {b : Buf} {i : Nat} {f : Fault} :
    s.bufRead b i = .error f ↔ s.mem.read (b.address i) = none ∧ f = .unwrittenRead (b.address i) := by
  unfold State.bufRead; cases s.mem.read (b.address i) <;> simp [eq_comm]

theorem State.holds_nil (s : State) (b : Buf) (i : Nat) : s.holds b i [] := fun k hk => by simp at hk

theorem State.holds_cons {s : State} {b : Buf} {i : Nat} {v : Byte} {vs : List Byte} :
    s.holds b i (v :: vs) ↔ s.mem.read (b.address i) = some v ∧ s.holds b (i + 1) vs := by
  constructor
  · intro h
    refine ⟨by simpa using h 0 (by simp), fun k hk => ?_⟩
    have := h (k + 1) (by simpa using hk)
    rwa [List.getElem?_cons_succ, show i + (k + 1) = i + 1 + k by omega] at this
  · rintro ⟨h0, h⟩ k hk
    cases k with
    | zero => simpa using h0
    | succ k =>
      rw [List.getElem?_cons_succ, show i + (k + 1) = i + 1 + k by omega]
      exact h k (by simpa using hk)

/-- The buffer reads answer exactly the bytes the buffer holds. -/
theorem State.bufReads_ok {s : State} {b : Buf} {i n : Nat} {vs : List Byte} :
    s.bufReads b i n = .ok vs ↔ vs.length = n ∧ s.holds b i vs := by
  induction n generalizing i vs with
  | zero =>
    unfold State.bufReads
    constructor
    · intro h; cases h; exact ⟨rfl, s.holds_nil b i⟩
    · rintro ⟨h, -⟩; rw [List.length_eq_zero_iff.mp h]
  | succ n ih =>
    unfold State.bufReads
    cases hv : s.bufRead b i with
    | error e =>
      rw [State.bufRead_error] at hv
      simp only [false_iff, not_and, reduceCtorEq]
      intro hl hh
      match vs, hl with
      | v :: vs, _ => rw [State.holds_cons, hv.1] at hh; simp at hh
    | ok v =>
      rw [State.bufRead_ok] at hv
      cases hvs : s.bufReads b (i + 1) n with
      | error e =>
        simp only [false_iff, not_and, reduceCtorEq]
        intro hl hh
        match vs, hl with
        | w :: ws, hl =>
          rw [State.holds_cons] at hh
          have := ih.mpr ⟨by simpa using hl, hh.2⟩
          rw [hvs] at this; cases this
      | ok ws =>
        obtain ⟨hl', hh'⟩ := ih.mp hvs
        constructor
        · intro h; cases h
          exact ⟨by simp [hl'], State.holds_cons.mpr ⟨hv, hh'⟩⟩
        · rintro ⟨hl, hh⟩
          match vs, hl with
          | u :: us, hl =>
            rw [State.holds_cons, hv] at hh
            have := ih.mpr ⟨by simpa using hl, hh.2⟩
            rw [hvs] at this
            cases this
            simp only [Option.some.injEq] at hh
            rw [hh.1]

/-- They fault exactly at the first unwritten byte among those they read. -/
theorem State.bufReads_error {s : State} {b : Buf} {i n : Nat} {f : Fault} :
    s.bufReads b i n = .error f ↔ ∃ k, s.firstUnwritten b i n k ∧ f = .unwrittenRead (b.address k) := by
  induction n generalizing i with
  | zero =>
    unfold State.bufReads State.firstUnwritten
    simp only [false_iff, not_exists, reduceCtorEq]
    rintro k ⟨⟨h1, h2, -⟩, -⟩
    omega
  | succ n ih =>
    unfold State.bufReads
    cases hv : s.bufRead b i with
    | error e =>
      obtain ⟨hn, rfl⟩ := State.bufRead_error.mp hv
      constructor
      · intro h; cases h
        exact ⟨i, ⟨le_refl i, by omega, hn, fun j h1 h2 => by omega⟩, rfl⟩
      · rintro ⟨k, ⟨h1, h2, h3, h4⟩, rfl⟩
        by_cases hk : k = i
        · rw [hk]
        · exact absurd hn (h4 i (le_refl i) (by omega))
    | ok v =>
      have hsome : s.mem.read (b.address i) ≠ none := by rw [State.bufRead_ok.mp hv]; simp
      have key : (∃ k, s.firstUnwritten b i (n + 1) k ∧ f = .unwrittenRead (b.address k)) ↔
          ∃ k, s.firstUnwritten b (i + 1) n k ∧ f = .unwrittenRead (b.address k) := by
        constructor
        · rintro ⟨k, ⟨h1, h2, h3, h4⟩, h5⟩
          have hk : k ≠ i := by rintro rfl; exact hsome h3
          exact ⟨k, ⟨by omega, by omega, h3, fun j h6 h7 => h4 j (by omega) h7⟩, h5⟩
        · rintro ⟨k, ⟨h1, h2, h3, h4⟩, h5⟩
          refine ⟨k, ⟨by omega, by omega, h3, fun j h6 h7 => ?_⟩, h5⟩
          by_cases hj : j = i
          · rwa [hj]
          · exact h4 j (by omega) h7
      rw [key, ← ih]
      cases s.bufReads b (i + 1) n <;> simp

theorem withBytes_of_holds {s : State} {b : Buf} {i n : Nat} {vs : List Byte} (hl : vs.length = n) (h : s.holds b i vs)
    (k : List Byte → Outcome) : withBytes b i n s k = k vs := by
  unfold withBytes; rw [State.bufReads_ok.mpr ⟨hl, h⟩]

theorem withBytes_of_unwritten {s : State} {b : Buf} {i n j : Nat} (h : s.firstUnwritten b i n j)
    (k : List Byte → Outcome) : withBytes b i n s k = .fault (.unwrittenRead (b.address j)) := by
  unfold withBytes; rw [State.bufReads_error.mpr ⟨j, h, rfl⟩]

/-- Everything a command's buffer read can do. -/
theorem withBytes_cases (b : Buf) (i n : Nat) (s : State) (k : List Byte → Outcome) :
    (∃ vs, vs.length = n ∧ s.holds b i vs ∧ withBytes b i n s k = k vs) ∨
    (∃ j, s.firstUnwritten b i n j ∧ withBytes b i n s k = .fault (.unwrittenRead (b.address j))) := by
  cases h : s.bufReads b i n with
  | ok vs =>
    obtain ⟨h1, h2⟩ := State.bufReads_ok.mp h
    exact .inl ⟨vs, h1, h2, withBytes_of_holds h1 h2 k⟩
  | error f =>
    obtain ⟨j, h1, -⟩ := State.bufReads_error.mp h
    exact .inr ⟨j, h1, withBytes_of_unwritten h1 k⟩

/-- Everything a command's read of one byte can do. -/
theorem withByte_cases (b : Buf) (i : Nat) (s : State) (k : Byte → Outcome) :
    (∃ v, s.mem.read (b.address i) = some v ∧ withByte b i s k = k v) ∨
    (s.mem.read (b.address i) = none ∧ withByte b i s k = .fault (.unwrittenRead (b.address i))) := by
  unfold withByte State.bufRead
  cases s.mem.read (b.address i) with
  | some v => exact .inl ⟨v, rfl, rfl⟩
  | none => exact .inr ⟨rfl, rfl⟩

theorem State.bufWrite_holds (s : State) (b : Buf) (vs : List Byte) : (s.bufWrite b 0 vs).holds b 0 vs := fun k hk => by
  rw [State.bufWrite_mem, Nat.zero_add]
  exact Memory.read_write_inside _ _ _ _ hk

theorem State.bufWrite_keepsOutside (s : State) (b : Buf) (i : Nat) (vs : List Byte) :
    s.keepsOutside (s.bufWrite b i vs) (b.address i) vs.length := fun x hx => by
  rw [State.bufWrite_mem]
  exact Memory.read_write_outside _ _ _ _ hx

end Sys2Proof.Machine
end

