-- ==== Sys2Proof/Laws/Commands.lean ====
section
/-! SUPPORT. Everything each command can do, its guards included: one lemma per meaning and per step of PARSE, which later
proofs cite instead of unfolding it. -/
namespace Sys2Proof.Machine

/-- R153. -/
theorem execStuff_cases (s : State) :
    (274 < s.regs.logLen.toNat ∧ execStuff s = .next (s.completed .lenRange)) ∨
    (s.regs.logLen.toNat ≤ 274 ∧ ∃ bytes, bytes.length = s.regs.logLen.toNat ∧ s.holds .log 0 bytes ∧
      execStuff s = .next ((s.stuffed bytes).completed .ok)) ∨
    (s.regs.logLen.toNat ≤ 274 ∧ ∃ k, s.firstUnwritten .log 0 s.regs.logLen.toNat k ∧
      execStuff s = .fault (.unwrittenRead (Buf.log.address k))) := by
  unfold execStuff
  by_cases h : 274 < s.regs.logLen.toNat
  · exact .inl ⟨h, if_pos h⟩
  · rw [if_neg (show ¬ Config.LOG_CAP < _ from h)]
    rcases withBytes_cases .log 0 s.regs.logLen.toNat s (fun bytes => finish .ok (s.stuffed bytes)) with ⟨vs, h1, h2, h3⟩ | ⟨k, h1, h2⟩
    · exact .inr (.inl ⟨by omega, vs, h1, h2, h3⟩)
    · exact .inr (.inr ⟨by omega, k, h1, h2⟩)

/-- R154: the destuffed bits of the bytes read. -/
theorem execDestuff_cases (s : State) :
    (2648 < s.regs.rawBits.toNat ∧ execDestuff s = .next (s.completed .lenRange)) ∨
    (s.regs.rawBits.toNat ≤ 2648 ∧ ∃ bytes d, bytes.length = byteCount s.regs.rawBits.toNat ∧ s.holds .raw 0 bytes ∧
      d = destuff ((bits bytes).take s.regs.rawBits.toNat) ∧
      execDestuff s = .next ((s.logDestuffed d).completed (if 274 < wholeBytes d then .overflow else .ok))) ∨
    (s.regs.rawBits.toNat ≤ 2648 ∧ ∃ k, s.firstUnwritten .raw 0 (byteCount s.regs.rawBits.toNat) k ∧
      execDestuff s = .fault (.unwrittenRead (Buf.raw.address k))) := by
  unfold execDestuff
  by_cases h : 2648 < s.regs.rawBits.toNat
  · exact .inl ⟨h, if_pos h⟩
  · simp only [if_neg (show ¬ Config.RAW_BITS_CAP < s.regs.rawBits.toNat from h)]
    rcases withBytes_cases .raw 0 (byteCount s.regs.rawBits.toNat) s _ with ⟨vs, h1, h2, h3⟩ | ⟨k, h1, h2⟩
    · exact .inr (.inl ⟨by omega, vs, _, h1, h2, rfl, h3⟩)
    · exact .inr (.inr ⟨by omega, k, h1, h2⟩)

/-- R185. -/
theorem execFcsgen_cases (s : State) :
    (274 < s.regs.logLen.toNat ∧ execFcsgen s = .next (s.completed .lenRange)) ∨
    (s.regs.logLen.toNat ≤ 274 ∧ ∃ bytes, bytes.length = s.regs.logLen.toNat ∧ s.holds .log 0 bytes ∧
      execFcsgen s = .next (State.completed .ok
        { s with regs := { s.regs with fcs := fcsCompute bytes, fcsCalc := fcsCompute bytes } })) ∨
    (s.regs.logLen.toNat ≤ 274 ∧ ∃ k, s.firstUnwritten .log 0 s.regs.logLen.toNat k ∧
      execFcsgen s = .fault (.unwrittenRead (Buf.log.address k))) := by
  unfold execFcsgen
  by_cases h : 274 < s.regs.logLen.toNat
  · exact .inl ⟨h, if_pos h⟩
  · rw [if_neg (show ¬ Config.LOG_CAP < _ from h)]
    rcases withBytes_cases .log 0 s.regs.logLen.toNat s _ with ⟨vs, h1, h2, h3⟩ | ⟨k, h1, h2⟩
    · exact .inr (.inl ⟨by omega, vs, h1, h2, h3⟩)
    · exact .inr (.inr ⟨by omega, k, h1, h2⟩)

/-- R186. -/
theorem execFcschk_cases (s : State) :
    (274 < s.regs.logLen.toNat ∧ execFcschk s = .next (s.completed .lenRange)) ∨
    (s.regs.logLen.toNat ≤ 274 ∧ ∃ bytes, bytes.length = s.regs.logLen.toNat ∧ s.holds .log 0 bytes ∧
      execFcschk s = .next (State.completed (if fcsVerify bytes s.regs.fcs then .ok else .integrityError)
        { s with regs := { s.regs with fcsCalc := fcsCompute bytes } })) ∨
    (s.regs.logLen.toNat ≤ 274 ∧ ∃ k, s.firstUnwritten .log 0 s.regs.logLen.toNat k ∧
      execFcschk s = .fault (.unwrittenRead (Buf.log.address k))) := by
  unfold execFcschk
  by_cases h : 274 < s.regs.logLen.toNat
  · exact .inl ⟨h, if_pos h⟩
  · rw [if_neg (show ¬ Config.LOG_CAP < _ from h)]
    rcases withBytes_cases .log 0 s.regs.logLen.toNat s _ with ⟨vs, h1, h2, h3⟩ | ⟨k, h1, h2⟩
    · exact .inr (.inl ⟨by omega, vs, h1, h2, h3⟩)
    · exact .inr (.inr ⟨by omega, k, h1, h2⟩)

/-- R203. -/
theorem execAenc_cases (s : State) :
    ((6 < s.regs.txDest.len.toNat ∨ 6 < s.regs.txSrc.len.toNat) ∧ execAenc s = .next (s.completed .callLen)) ∨
    (s.regs.txDest.len.toNat ≤ 6 ∧ s.regs.txSrc.len.toNat ≤ 6 ∧ execAenc s = .next (State.completed .ok
      { s with regs := { s.regs with addr := addrRegs (encAddr s.regs.txDest s.regs.txSrc) } })) := by
  have hm : Config.MAX_CALL = 6 := rfl
  simp only [execAenc, Station.tooLong, finish, hm, Bool.or_eq_true, decide_eq_true_eq]
  split
  · next h => exact .inl ⟨h, rfl⟩
  · next h => exact .inr ⟨by omega, by omega, rfl⟩

/-- R206. -/
theorem execAdec_cases (s : State) :
    (274 < s.regs.logLen.toNat ∧ execAdec s = .next (s.completed .lenRange)) ∨
    (s.regs.logLen.toNat < 14 ∧ execAdec s = .next (s.completed .shortAddr)) ∨
    (14 ≤ s.regs.logLen.toNat ∧ s.regs.logLen.toNat ≤ 274 ∧ ((∃ bytes, bytes.length = 14 ∧ s.holds .log 0 bytes ∧
        execAdec s = .next ((s.writeDec bytes).completed .ok)) ∨
      ∃ k, s.firstUnwritten .log 0 14 k ∧ execAdec s = .fault (.unwrittenRead (Buf.log.address k)))) := by
  unfold execAdec
  by_cases h : 274 < s.regs.logLen.toNat
  · exact .inl ⟨h, if_pos h⟩
  · rw [if_neg (show ¬ Config.LOG_CAP < _ from h)]
    by_cases h' : s.regs.logLen.toNat < 14
    · exact .inr (.inl ⟨h', if_pos h'⟩)
    · rw [if_neg (show ¬ _ < Config.ALEN from h')]
      refine .inr (.inr ⟨by omega, by omega, ?_⟩)
      rcases withBytes_cases .log 0 14 s (fun bytes => finish .ok (s.writeDec bytes)) with ⟨vs, h1, h2, h3⟩ | ⟨k, h1, h2⟩
      · exact .inl ⟨vs, h1, h2, h3⟩
      · exact .inr ⟨k, h1, h2⟩

/-- R228: a check fails, or all pass and the frame is assembled, or an INFO byte is unwritten. -/
theorem execAsm_cases (s : State) :
    (frameType (ftypeField s.regs.txctl) = none ∧ execAsm s = .next (s.completed .ftype)) ∨
    (∃ ft c, frameType (ftypeField s.regs.txctl) = some ft ∧ asmCheck ft s.regs = some c ∧
      execAsm s = .next (s.completed c)) ∨
    (∃ ft, frameType (ftypeField s.regs.txctl) = some ft ∧ asmCheck ft s.regs = none ∧
      ((∃ payload, payload.length = payloadLen ft s.regs ∧ s.holds .info 0 payload ∧
          execAsm s = .next ((s.assembled ft payload).completed .ok)) ∨
        ∃ k, s.firstUnwritten .info 0 (payloadLen ft s.regs) k ∧
          execAsm s = .fault (.unwrittenRead (Buf.info.address k)))) := by
  unfold execAsm
  cases hft : frameType (ftypeField s.regs.txctl) with
  | none => exact .inl ⟨rfl, rfl⟩
  | some ft =>
    cases hc : asmCheck ft s.regs with
    | some c => exact .inr (.inl ⟨ft, c, rfl, hc, by simp only [hc]; rfl⟩)
    | none =>
      refine .inr (.inr ⟨ft, rfl, hc, ?_⟩)
      simp only [hc]
      rcases withBytes_cases .info 0 (payloadLen ft s.regs) s (fun payload => finish .ok (s.assembled ft payload)) with
        ⟨vs, h1, h2, h3⟩ | ⟨k, h1, h2⟩
      · exact .inl ⟨vs, h1, h2, h3⟩
      · exact .inr ⟨k, h1, h2⟩

/-- R220: all checks after FTYPE pass exactly on these arguments. -/
theorem asmCheck_none {ft : FrameType} {r : Regs} : asmCheck ft r = none ↔
    clenField r.txctl = ft.clen ∧ r.txAlen = 14 ∧ r.txDest.len.toNat ≤ 6 ∧ r.txSrc.len.toNat ≤ 6 ∧ payloadLen ft r ≤ 255 := by
  have h14 : BitVec.ofNat 8 Config.ALEN = (14 : Byte) := rfl
  have hm : Config.MAX_CALL = 6 := rfl
  have hi : Config.INFO_CAP = 255 := rfl
  simp only [asmCheck, Station.tooLong, h14, hm, hi, Bool.or_eq_true, decide_eq_true_eq]
  split
  · simp_all
  · split
    · simp_all
    · split
      · simp only [reduceCtorEq, false_iff]; omega
      · split
        · simp only [reduceCtorEq, false_iff]; omega
        · simp_all

/-! ### PARSE, step by step -/

/-- R257-R260. -/
theorem parseInfo_cases (frame : List Byte) (s : State) :
    ((ctrl0 frame).getLsbD 0 = true ∧ parseInfo frame s = .next (s.completed .notIControl)) ∨
    ((ctrl0 frame).getLsbD 0 = false ∧ seqField (ctrl0 frame) ≠ s.regs.vr ∧
      parseInfo frame s = .next (s.completed .sequenceMismatch)) ∨
    ((ctrl0 frame).getLsbD 0 = false ∧ seqField (ctrl0 frame) = s.regs.vr ∧ pidOf frame ≠ 0xF0 ∧
      parseInfo frame s = .next (s.completed .protocolIdError)) ∨
    ((ctrl0 frame).getLsbD 0 = false ∧ seqField (ctrl0 frame) = s.regs.vr ∧ pidOf frame = 0xF0 ∧
      parseInfo frame s = .next ((s.deliver frame).completed .ok)) := by
  unfold parseInfo finish
  split
  · next h1 => exact .inl ⟨h1, rfl⟩
  · next h1 =>
    rw [Bool.not_eq_true] at h1
    split
    · next h2 => exact .inr (.inl ⟨h1, h2, rfl⟩)
    · next h2 =>
      rw [not_not] at h2
      split
      · next h3 => exact .inr (.inr (.inl ⟨h1, h2, h3, rfl⟩))
      · next h3 => exact .inr (.inr (.inr ⟨h1, h2, not_not.mp h3, rfl⟩))

/-- R261, R262. -/
theorem parseSup_cases (frame : List Byte) (s : State) :
    (legalSupervisory (ctrl0 frame) = true ∧
      parseSup frame s = .next (State.completed .ok { s with regs := { s.regs with rxKind := 2 } })) ∨
    (legalSupervisory (ctrl0 frame) = false ∧ parseSup frame s = .next (s.completed .unknownSupervisoryCode)) := by
  unfold parseSup finish
  cases legalSupervisory (ctrl0 frame) <;> simp

/-- R256: the path is the frame's length's. -/
theorem parseControl_cases (frame : List Byte) (s : State) :
    (frame.length = 274 ∧ parseControl frame s = parseInfo frame (s.rxInfo frame)) ∨
    (frame.length ≠ 274 ∧ parseControl frame s = parseSup frame (s.rxSup frame)) := by
  unfold parseControl
  by_cases h : frame.length = 274
  · exact .inl ⟨h, if_pos h⟩
  · exact .inr ⟨h, if_neg h⟩

/-- R255. -/
theorem parseAddress_cases (frame : List Byte) (s : State) :
    (localMatch s.regs.localStn frame = true ∧
      parseAddress frame s = parseControl frame (s.writeDec (frame.take 14))) ∨
    (localMatch s.regs.localStn frame = false ∧
      parseAddress frame s = .next ((s.writeDec (frame.take 14)).completed .addressMismatch)) := by
  unfold parseAddress finish
  cases h : localMatch s.regs.localStn frame <;> simp [h]

/-- R254. -/
theorem parseFcs_cases (frame : List Byte) (s : State) :
    ∃ t, t = { s with regs := { s.regs with fcs := frameFcs frame, fcsCalc := fcsCompute (fcsSpan frame) } } ∧
      ((frameFcs frame = fcsCompute (fcsSpan frame) ∧ parseFcs frame s = parseAddress frame t) ∨
        (frameFcs frame ≠ fcsCompute (fcsSpan frame) ∧ parseFcs frame s = .next (t.completed .integrityError))) := by
  refine ⟨_, rfl, ?_⟩
  unfold parseFcs fcsVerify finish
  by_cases h : frameFcs frame = fcsCompute (fcsSpan frame)
  · exact .inl ⟨h, if_pos (by simpa using h)⟩
  · exact .inr ⟨h, if_neg (by simpa using h)⟩

/-- R252, R253. -/
theorem parseBody_cases (interior : List Byte) (s : State) :
    ∃ d, d = destuff (bits interior) ∧
      ((274 < wholeBytes d ∧ parseBody interior s = .next ((s.logDestuffed d).completed .overflow)) ∨
        (wholeBytes d ≤ 274 ∧ wholeBytes d ≠ 18 ∧ wholeBytes d ≠ 274 ∧
          parseBody interior s = .next ((s.logDestuffed d).completed .badLength)) ∨
        ((wholeBytes d = 18 ∨ wholeBytes d = 274) ∧
          parseBody interior s = parseFcs (bytesOf (wholeBytes d) d) (s.logDestuffed d))) := by
  refine ⟨_, rfl, ?_⟩
  unfold parseBody finish
  by_cases h : 274 < wholeBytes (destuff (bits interior))
  · exact .inl ⟨h, if_pos h⟩
  · by_cases h' : wholeBytes (destuff (bits interior)) ≠ 18 ∧ wholeBytes (destuff (bits interior)) ≠ 274
    · exact .inr (.inl ⟨by omega, h'.1, h'.2, (if_neg h).trans (if_pos h')⟩)
    · exact .inr (.inr ⟨by omega, (if_neg h).trans (if_neg h')⟩)

/-- R251. -/
theorem parseFlags_cases (n : Nat) (s : State) :
    (s.mem.read 0x200 = none ∧ parseFlags n s = .fault (.unwrittenRead 0x200)) ∨
    (∃ b, s.mem.read 0x200 = some b ∧ b ≠ 0x7E ∧ parseFlags n s = .next (s.completed .noStartFlag)) ∨
    (s.mem.read 0x200 = some 0x7E ∧
      ((s.mem.read (0x200 + (n - 1)) = none ∧ parseFlags n s = .fault (.unwrittenRead (0x200 + (n - 1)))) ∨
        (∃ b, s.mem.read (0x200 + (n - 1)) = some b ∧ b ≠ 0x7E ∧ parseFlags n s = .next (s.completed .noEndFlag)) ∨
        (s.mem.read (0x200 + (n - 1)) = some 0x7E ∧
          ((∃ interior, interior.length = n - 2 ∧ s.holds .raw 1 interior ∧ parseFlags n s = parseBody interior s) ∨
            ∃ k, s.firstUnwritten .raw 1 (n - 2) k ∧ parseFlags n s = .fault (.unwrittenRead (0x200 + k)))))) := by
  unfold parseFlags
  rcases withByte_cases .raw 0 s _ with ⟨b, h1, h2⟩ | ⟨h1, h2⟩ <;> rw [h2]
  · by_cases hb : b = 0x7E
    · subst hb
      refine .inr (.inr ⟨h1, ?_⟩)
      rw [if_neg (by decide)]
      rcases withByte_cases .raw (n - 1) s _ with ⟨c, h3, h4⟩ | ⟨h3, h4⟩ <;> rw [h4]
      · by_cases hc : c = 0x7E
        · subst hc
          refine .inr (.inr ⟨h3, ?_⟩)
          rw [if_neg (by decide)]
          rcases withBytes_cases .raw 1 (n - 2) s (fun interior => parseBody interior s) with ⟨vs, h5, h6, h7⟩ | ⟨k, h5, h6⟩
          · exact .inl ⟨vs, h5, h6, h7⟩
          · exact .inr ⟨k, h5, h6⟩
        · exact .inr (.inl ⟨c, h3, hc, if_pos hc⟩)
      · exact .inl ⟨h3, rfl⟩
    · exact .inr (.inl ⟨b, h1, hb, if_pos hb⟩)
  · exact .inl ⟨h1, rfl⟩

/-- R250, R265. -/
theorem execParse_cases (s : State) :
    (6 < s.regs.localStn.len.toNat ∧ execParse s = .next (s.rxCleared.completed .callLen)) ∨
    (s.regs.localStn.len.toNat ≤ 6 ∧ 331 < s.regs.rawLen.toNat ∧ execParse s = .next (s.rxCleared.completed .lenRange)) ∨
    (s.regs.localStn.len.toNat ≤ 6 ∧ s.regs.rawLen.toNat = 0 ∧ execParse s = .next (s.rxCleared.completed .nullInput)) ∨
    (s.regs.localStn.len.toNat ≤ 6 ∧ 1 ≤ s.regs.rawLen.toNat ∧ s.regs.rawLen.toNat ≤ 331 ∧
      execParse s = parseFlags s.regs.rawLen.toNat s.rxCleared) := by
  unfold execParse Station.tooLong finish
  by_cases h1 : 6 < s.regs.localStn.len.toNat
  · exact .inl ⟨h1, by simp [h1]⟩
  · by_cases h2 : 331 < s.regs.rawLen.toNat
    · exact .inr (.inl ⟨by omega, h2, by simp [h1, h2]⟩)
    · by_cases h3 : s.regs.rawLen.toNat = 0
      · exact .inr (.inr (.inl ⟨by omega, h3, by simp [h1, h3]⟩))
      · exact .inr (.inr (.inr ⟨by omega, by omega, by omega, by simp [h1, h2, h3]⟩))

end Sys2Proof.Machine
end

