-- ==== Sys2Proof/Laws/PerInstr.lean ====
section
/-! SUPPORT. The per-instruction family RowEncoding: a well-formed instruction's encoding is one byte that matches its
row of spec/opcode_table.json (R110, R111). -/
namespace Sys2Proof.Laws.RowEncoding

/-- The mask and match of each row of spec/opcode_table.json. -/
def row : Instr → Byte × Byte
  | .nop => (0xFF, 0x00)
  | .stuff => (0xFF, 0x01)
  | .destuff => (0xFF, 0x02)
  | .fcsgen => (0xFF, 0x03)
  | .fcschk => (0xFF, 0x04)
  | .aenc => (0xFF, 0x05)
  | .adec => (0xFF, 0x06)
  | .asm => (0xFF, 0x07)
  | .parse => (0xFF, 0x08)
  | .incvs => (0xFF, 0x09)
  | .incvr => (0xFF, 0x0A)
  | .srst => (0xFF, 0x0F)
  | .reserved0b => (0xFF, 0x0B)
  | .reserved0c => (0xFF, 0x0C)
  | .reserved0d => (0xFF, 0x0D)
  | .reserved0e => (0xFF, 0x0E)
  | .illegal80 _ => (0x80, 0x80)
  | .illegal40 _ => (0xC0, 0x40)
  | .illegal20 _ => (0xE0, 0x20)
  | .illegal10 _ => (0xF0, 0x10)

/-- The instruction's encoding is one byte of its row. -/
def Statement (i : Instr) : Prop :=
  i.wf = true → (encode i).length = 1 ∧ matchesRow (row i).1 (row i).2 (encodeByte i) = true

theorem nop : Statement .nop := fun _ => by decide
theorem stuff : Statement .stuff := fun _ => by decide
theorem destuff : Statement .destuff := fun _ => by decide
theorem fcsgen : Statement .fcsgen := fun _ => by decide
theorem fcschk : Statement .fcschk := fun _ => by decide
theorem aenc : Statement .aenc := fun _ => by decide
theorem adec : Statement .adec := fun _ => by decide
theorem asm : Statement .asm := fun _ => by decide
theorem parse : Statement .parse := fun _ => by decide
theorem incvs : Statement .incvs := fun _ => by decide
theorem incvr : Statement .incvr := fun _ => by decide
theorem srst : Statement .srst := fun _ => by decide
theorem reserved0b : Statement .reserved0b := fun _ => by decide
theorem reserved0c : Statement .reserved0c := fun _ => by decide
theorem reserved0d : Statement .reserved0d := fun _ => by decide
theorem reserved0e : Statement .reserved0e := fun _ => by decide
theorem illegal80 (cmd : Byte) : Statement (.illegal80 cmd) := fun h => ⟨rfl, h⟩
theorem illegal40 (cmd : Byte) : Statement (.illegal40 cmd) := fun h => ⟨rfl, h⟩
theorem illegal20 (cmd : Byte) : Statement (.illegal20 cmd) := fun h => ⟨rfl, h⟩
theorem illegal10 (cmd : Byte) : Statement (.illegal10 cmd) := fun h => ⟨rfl, h⟩

end Sys2Proof.Laws.RowEncoding
end

