-- ==== Sys2Proof/Laws/Step.lean ====
section
/-! SUPPORT. What one step can do: the fetch that `withFetchWord` stands for, the inversion of completion and of the
inputs, and the spec lemmas of the register map. -/
namespace Sys2Proof.Machine

theorem finish_next {c : Completion} {s t : State} : finish c s = .next t ↔ t = s.completed c := by
  unfold finish; constructor
  · intro h; cases h; rfl
  · rintro rfl; rfl

/-- `withFetchWord` places a command that the next step runs. -/
theorem step_withFetchWord (s : State) (nbits w : Nat) :
    step (s.withFetchWord nbits w) = runCommand (BitVec.ofNat 8 (w % 2 ^ nbits))
      { s with inFlight := none, rst := false, response := none } := rfl

/-- Everything a step can do: with RST high, idle, or with a command in flight; with an input or without. -/
theorem step_cases (s : State) :
    (s.rst = true ∧ ((s.inputs = [] ∧ step s = .next s) ∨
      ∃ x rest, s.inputs = x :: rest ∧ step s = heldInput x (s.take rest))) ∨
    (s.rst = false ∧ s.inFlight = none ∧ ((s.inputs = [] ∧ step s = .next s) ∨
      ∃ x rest, s.inputs = x :: rest ∧ step s = idleInput x (s.take rest))) ∨
    (∃ i, s.rst = false ∧ s.inFlight = some i ∧ ((s.inputs = [] ∧ step s = exec i s) ∨
      ∃ x rest, s.inputs = x :: rest ∧ step s = busyInput i x (s.take rest))) := by
  unfold step hostStep
  cases hin : s.inputs with
  | nil =>
    unfold noInput
    cases hr : s.rst <;> cases hf : s.inFlight <;> simp
  | cons x rest =>
    unfold onInput
    cases hr : s.rst <;> cases hf : s.inFlight <;> simp [hr, hf]

/-- R83, R84: what a host write can do to the registers and memory. -/
theorem memWrite_cases (a : Addr) (v : Byte) (s : State) :
    (∃ row k, locate a = .reg row k ∧ memWrite a v s = { s with regs := writeReg k v s.regs row.name }) ∨
    (∃ b i, locate a = .buf b i ∧ memWrite a v s = s.bufWrite b i [v]) ∨
    memWrite a v s = s := by
  unfold memWrite
  cases h : locate a with
  | reg row k => cases hacc : row.access <;> simp [hacc]
  | buf b i => simp
  | reserved => simp

/-- R82: a buffer place is within its capacity, at the address it was found at. -/
theorem locate_buf {a : Addr} {b : Buf} {i : Nat} (h : locate a = .buf b i) : i < b.cap ∧ b.address i = a.toNat := by
  unfold locate at h
  split at h
  · cases h
  · split at h
    · next b' hb =>
      cases h
      have := List.find?_some hb
      simp only [Buf.holds, Bool.and_eq_true, decide_eq_true_eq] at this
      unfold Buf.address
      omega
    · cases h

/-- A host write keeps memory canonical. -/
theorem memWrite_wf {s : State} (hm : s.mem.wf) (a : Addr) (v : Byte) : (memWrite a v s).mem.wf := by
  rcases memWrite_cases a v s with ⟨row, k, -, h⟩ | ⟨b, i, hloc, h⟩ | h <;> rw [h]
  · exact hm
  · exact State.bufWrite_wf hm b i [v] (by have := (locate_buf hloc).1; simp only [List.length_singleton]; omega)
  · exact hm

end Sys2Proof.Machine
end

