-- ==== Sys2Proof/Machine/HostProgram.lean ====
section
/-! DEFINITION. The host-program notation of R123 and R124 as the inputs it expands to. What the host computes from a
byte it read (`rdv`) is the host's own: the expansion takes that byte as an argument (log entry 13). -/
namespace Sys2Proof.Machine.HostProgram

/-- R123: `wr ADDR, VAL`. -/
def wr (a : Addr) (v : Byte) : List Input := [.write a v]

/-- R123: `rd ADDR`. -/
def rd (a : Addr) : List Input := [.read a]

/-- R124: `cmd MNEM`. -/
def cmd (i : Instr) : List Input := wr CMD (encodeByte i)

/-- R124: `wr16 ADDR, V`. -/
def wr16 (a : Addr) (v : Half) : List Input := wr a (lo8 v) ++ wr (a + 1) (hi8 v)

/-- R124: `wrs ADDR, [b0, b1, ...]`. -/
def wrs (a : Addr) : List Byte → List Input
  | [] => []
  | v :: vs => wr a v ++ wrs (a + 1) vs

/-- R124: `stn GROUP, CALL, SSID`, for the group whose `_LEN` register stands at `group`. -/
def stn (group : Addr) (call : List Byte) (ssid : Byte) : List Input :=
  wr group (BitVec.ofNat 8 call.length) ++ wr (group + 1) ssid ++ wrs (group + 2) call

/-- R124: `wait`: one read of STATUS, which ends at once in the model. -/
def wait : List Input := rd STATUS

/-- R124: `ack`: clear DONE and OVR. -/
def ack : List Input := wr STATUS 0x06

/-- R124: `txctl FT, PF, CL`. -/
def txctl (ft : Byte) (pf : Byte) (cl : Byte) : List Input := wr 0x020 ((cl <<< 4) ||| (pf <<< 3) ||| ft)

/-- R124: `rep N ... end`. -/
def rep (n : Nat) (body : List Input) : List Input := (List.replicate n body).flatten

/-- R124: `rdv ADDR -> x`, then `wr ADDR, x ^ M`, where the read gave `x`. -/
def rdvXor (a : Addr) (x m : Byte) : List Input := rd a ++ wr a (x ^^^ m)

end Sys2Proof.Machine.HostProgram
end

