-- ==== Sys2Proof/Tests/Slice0.lean ====
section
/-! SUPPORT. The model's own tests: well-formedness, one decoded word per opcode-table row, at most two steps per
instruction, and a witness for the hypotheses of every obligation. Expected values are the spec's derived vectors
(95_test_vectors.md), named at each test. -/
namespace Sys2Proof.Tests
open Sys2Proof Sys2Proof.Machine

/-! ### Well-formedness: an ill-formed term for each check, and one at the edge of each row -/

theorem test_wf_illegal80 : (Instr.illegal80 0x7F).wf = false ∧ (Instr.illegal80 0x80).wf = true := by decide
theorem test_wf_illegal40 : (Instr.illegal40 0x80).wf = false ∧ (Instr.illegal40 0x3F).wf = false ∧
    (Instr.illegal40 0x7F).wf = true := by decide
theorem test_wf_illegal20 : (Instr.illegal20 0x40).wf = false ∧ (Instr.illegal20 0x1F).wf = false ∧
    (Instr.illegal20 0x3F).wf = true := by decide
theorem test_wf_illegal10 : (Instr.illegal10 0x20).wf = false ∧ (Instr.illegal10 0x0F).wf = false ∧
    (Instr.illegal10 0x1F).wf = true := by decide

/-! ### Decoding: the word of each row, written out from R110 and R111 -/

theorem test_decode_nop : decodeTableWord 8 0b00000000 = some .nop := by decide
theorem test_decode_stuff : decodeTableWord 8 0b00000001 = some .stuff := by decide
theorem test_decode_destuff : decodeTableWord 8 0b00000010 = some .destuff := by decide
theorem test_decode_fcsgen : decodeTableWord 8 0b00000011 = some .fcsgen := by decide
theorem test_decode_fcschk : decodeTableWord 8 0b00000100 = some .fcschk := by decide
theorem test_decode_aenc : decodeTableWord 8 0b00000101 = some .aenc := by decide
theorem test_decode_adec : decodeTableWord 8 0b00000110 = some .adec := by decide
theorem test_decode_asm : decodeTableWord 8 0b00000111 = some .asm := by decide
theorem test_decode_parse : decodeTableWord 8 0b00001000 = some .parse := by decide
theorem test_decode_incvs : decodeTableWord 8 0b00001001 = some .incvs := by decide
theorem test_decode_incvr : decodeTableWord 8 0b00001010 = some .incvr := by decide
theorem test_decode_srst : decodeTableWord 8 0b00001111 = some .srst := by decide
theorem test_decode_reserved0b : decodeTableWord 8 0b00001011 = some .reserved0b := by decide
theorem test_decode_reserved0c : decodeTableWord 8 0b00001100 = some .reserved0c := by decide
theorem test_decode_reserved0d : decodeTableWord 8 0b00001101 = some .reserved0d := by decide
theorem test_decode_reserved0e : decodeTableWord 8 0b00001110 = some .reserved0e := by decide
theorem test_decode_illegal80 : decodeTableWord 8 0b10000000 = some (.illegal80 0x80) ∧
    decodeTableWord 8 0b11111111 = some (.illegal80 0xFF) := by decide
theorem test_decode_illegal40 : decodeTableWord 8 0b01000001 = some (.illegal40 0x41) := by decide
theorem test_decode_illegal20 : decodeTableWord 8 0b00100010 = some (.illegal20 0x22) := by decide
theorem test_decode_illegal10 : decodeTableWord 8 0b00011111 = some (.illegal10 0x1F) := by decide

/-! ### Small states -/

/-- The block with these registers and these written bytes. -/
def block (r : Regs) (m : Memory) : State := { State.reset with regs := r, mem := m }

/-- These bytes at the start of a buffer. -/
def bufAt (b : Buf) (vs : List Byte) : Memory := cellsAt b.base vs

/-- The block right after reset, with these inputs to come. -/
def idleWith (x : List Input) : State := { State.reset with inputs := x }

/-- PARSE in flight, with these inputs to come. -/
def busyWith (x : List Input) : State := { State.reset with inputs := x, inFlight := some .parse }

/-- RST high, with these inputs to come. -/
def heldWith (x : List Input) : State := { State.reset with inputs := x, rst := true }

/-- The section 8 destination station, "NJ7P"/224. -/
def nj7p : Station := ⟨4, 0xE0, #v[0x4E, 0x4A, 0x37, 0x50, 0, 0]⟩

/-- The section 8 source station, "N7LEM"/97. -/
def n7lem : Station := ⟨5, 0x61, #v[0x4E, 0x37, 0x4C, 0x45, 0x4D, 0]⟩

/-- The registers after reset with the section 8 stations in TX_DEST, TX_SRC and LOCAL. -/
def stations : Regs := { Regs.reset with txDest := nj7p, txSrc := n7lem, localStn := nj7p }

/-- A block whose LOG holds these bytes, LOG_LEN their number. -/
def logBlock (vs : List Byte) : State :=
  block { Regs.reset with logLen := BitVec.ofNat 16 vs.length } (bufAt .log vs)

/-- A block with the section 8 stations whose RAW holds these bytes, RAW_LEN their number. -/
def rawBlock (vs : List Byte) : State :=
  block { stations with rawLen := BitVec.ofNat 16 vs.length } (bufAt .raw vs)

/-- The 14 address bytes of the section 8 stations (ADDR_EX). -/
def addrEx : List Byte := [0x9C, 0x94, 0x6E, 0xA0, 0x40, 0x40, 0xE0, 0x9C, 0x6E, 0x98, 0x8A, 0x9A, 0x40, 0x61]

/-- "hello world". -/
def hello : List Byte := [0x68, 0x65, 0x6C, 0x6C, 0x6F, 0x20, 0x77, 0x6F, 0x72, 0x6C, 0x64]

/-- "hello world" and 244 zero bytes (INFO255). -/
def info255 : List Byte := hello ++ List.replicate 244 0

/-- ADDR_EX, these control and PID bytes, INFO255: a frame of I length without its FCS. -/
def infoBody (c : List Byte) : List Byte := addrEx ++ c ++ info255

/-- The block of the section 8 example before ASM, with this TXCTL. -/
def asmBlock (txctl : BitVec 6) : State :=
  block { stations with txctl := txctl, infoLen := 11 } (bufAt .info hello)

/-- The next state of an outcome that has one. -/
def nextOf : Outcome → State
  | .next t => t
  | .fault _ => State.reset
  | .refused _ => State.reset

/-- The outcome is a next state with this property. -/
def goesTo (o : Outcome) (p : State → Bool) : Bool :=
  match o with
  | .next t => p t
  | .fault _ => false
  | .refused _ => false

/-- The outcome is this fault. -/
def faults (o : Outcome) (f : Fault) : Bool :=
  match o with
  | .next _ => false
  | .fault g => decide (g = f)
  | .refused _ => false

theorem next_of_goesTo {o : Outcome} {p : State → Bool} (h : goesTo o p = true) :
    o = .next (nextOf o) ∧ p (nextOf o) = true := by
  cases o with
  | next t => exact ⟨rfl, h⟩
  | fault f => cases h
  | refused r => cases h

/-- The first bytes of a buffer of a state. -/
def peek (s : State) (b : Buf) (i n : Nat) : List (Option Byte) :=
  (List.range n).map fun k => s.mem.read (b.address (i + k))

/-- The step that runs this command byte on this block goes to a state with this property. -/
def runs (cmd : Nat) (s : State) (p : State → Bool) : Bool := goesTo (step (s.withFetchWord 8 cmd)) p

/-! ### One step of each command, on the vectors of 95_test_vectors.md -/

/-- V141. -/
theorem test_nop : runs 0x00 (block { Regs.reset with result := 0x12 } [])
    (fun t => t.regs == { Regs.reset with done := true }) = true := by decide
/-- V23. -/
theorem test_stuff : runs 0x01 (logBlock [0xFF, 0xFF]) (fun t =>
    t.regs.result == 0x00 && t.regs.rawLen == 3 && t.regs.rawBits == 19 &&
      peek t .raw 0 4 == [some 0xDF, some 0xF7, some 0x05, none]) = true := by decide
/-- V25. -/
theorem test_stuff_range : runs 0x01 (block { Regs.reset with logLen := 275 } [])
    (fun t => t == { State.reset with regs := { Regs.reset with logLen := 275, result := 0x21, done := true } }) = true := by
  decide
/-- V28. -/
theorem test_destuff : runs 0x02 (block { Regs.reset with rawBits := 8 } (bufAt .raw [0x1F])) (fun t =>
    t.regs.result == 0x00 && t.regs.logLen == 0 && t.regs.dstfTail == 7 && peek t .log 0 1 == [none]) = true := by decide
/-- V29d. -/
theorem test_destuff_unwritten : faults (step ((block { Regs.reset with rawBits := 9 } (bufAt .raw [0xDF])).withFetchWord 8 0x02))
    (.unwrittenRead 0x201) = true := by decide
/-- V37. -/
theorem test_fcsgen : runs 0x03 (logBlock [0x31, 0x32, 0x33, 0x34, 0x35, 0x36, 0x37, 0x38, 0x39])
    (fun t => t.regs.result == 0x00 && t.regs.fcs == 0x7609 && t.regs.fcsCalc == 0x7609) = true := by decide +kernel
/-- V39. -/
theorem test_fcschk : runs 0x04
    (block { Regs.reset with logLen := 9, fcs := 0x906E } (bufAt .log [0x31, 0x32, 0x33, 0x34, 0x35, 0x36, 0x37, 0x38, 0x39]))
    (fun t => t.regs.result == 0x03 && t.regs.fcs == 0x906E && t.regs.fcsCalc == 0x7609) = true := by decide +kernel
/-- V50. -/
theorem test_aenc : runs 0x05 (block stations []) (fun t => t.regs.result == 0x00 && t.regs.addr.toList == addrEx) = true := by
  decide
/-- V52. -/
theorem test_aenc_ext : runs 0x05 (block { Regs.reset with
      txDest := ⟨2, 0x61, #v[0x41, 0x42, 9, 9, 9, 9]⟩, txSrc := ⟨2, 0xE0, #v[0x43, 0x51, 9, 9, 9, 9]⟩ } [])
    (fun t => t.regs.addr.toList ==
      [0x82, 0x84, 0x40, 0x40, 0x40, 0x40, 0x60, 0x86, 0xA2, 0x40, 0x40, 0x40, 0x40, 0xE1]) = true := by decide
/-- V56. -/
theorem test_adec : runs 0x06
    (logBlock [0x40, 0x40, 0x40, 0x40, 0x40, 0x40, 0xE1, 0x82, 0x40, 0x40, 0x40, 0x40, 0xE0, 0x00])
    (fun t => t.regs.result == 0x00 && t.regs.decDest == ⟨0, 0xE1, true, #v[0x20, 0x20, 0x20, 0x20, 0x20, 0x20]⟩ &&
      t.regs.decSrc == ⟨6, 0x00, false, #v[0x41, 0x20, 0x20, 0x20, 0x20, 0x70]⟩) = true := by decide
/-- V57. -/
theorem test_adec_short : runs 0x06 (block { Regs.reset with logLen := 13 } [])
    (fun t => t.regs == { Regs.reset with logLen := 13, result := 0x81, done := true }) = true := by decide
set_option maxRecDepth 100000 in
/-- W1: the I frame of section 8. -/
theorem test_asm_info : runs 0x07 (asmBlock 0x20) (fun t =>
    t.regs.result == 0x00 && t.regs.logLen == 274 && t.regs.fcs == 0xDF96 && t.regs.rawLen == 277 &&
      t.regs.rawBits == 2193 && t.regs.vs == 1 && t.regs.addr.toList == addrEx &&
      peek t .log 14 4 == [some 0x00, some 0x00, some 0xF0, some 0x68] &&
      peek t .raw 272 6 == [some 0x00, some 0x96, some 0xAF, some 0x01, some 0x7E, none]) = true := by decide +kernel
/-- V60b: the S frame RNR, VS = 3 and VR = 5. -/
theorem test_asm_sup : runs 0x07 (block { stations with txctl := 0x2A, vs := 3, vr := 5, infoLen := 11 } []) (fun t =>
    t.regs.result == 0x00 && t.regs.logLen == 18 && t.regs.fcs == 0xFC2F && t.regs.rawLen == 21 && t.regs.rawBits == 145 &&
      t.regs.vs == 3 && peek t .raw 14 8 ==
        [some 0x61, some 0x05, some 0x0B, some 0x2F, some 0x7C, some 0x01, some 0x7E, none]) = true := by decide +kernel
set_option maxRecDepth 100000 in
/-- V113: the PID is not 0xF0. -/
theorem test_parse_info : runs 0x08 (rawBlock (rawFrame (withFcs (infoBody [0x00, 0x00, 0xCF])))) (fun t =>
    t.regs.result == 0x05 && t.regs.rxKind == 0 && t.regs.logLen == 274 && t.regs.dstfTail == 0 &&
      t.regs.fcs == 0xACE9 && t.regs.fcsCalc == 0xACE9 && t.regs.rxPid == 0xCF && t.regs.vr == 0 &&
      peek t .info 0 1 == [none]) = true := by decide +kernel
/-- V60d's raw frame, received: SREJ with N(R) = 5. -/
theorem test_parse_sup : runs 0x08 (rawBlock ([0x7E] ++ addrEx ++ [0x0D, 0x0B, 0x5C, 0xDF, 0x01, 0x7E])) (fun t =>
    t.regs.result == 0x00 && t.regs.rxKind == 2 && t.regs.logLen == 18 && t.regs.dstfTail == 7 && t.regs.fcs == 0xFF5C &&
      t.regs.rxNr == 5 && t.regs.rxPf && t.regs.rxScode == 3 && t.regs.rxCtrl0 == 0x0D && t.regs.rxCtrl1 == 0x0B &&
      t.regs.decDest == ⟨4, 0xE0, false, #v[0x4E, 0x4A, 0x37, 0x50, 0x20, 0x20]⟩) = true := by decide +kernel
/-- V130. -/
theorem test_incvs : runs 0x09 (block { Regs.reset with vs := 127, vr := 5 } [])
    (fun t => t.regs.result == 0x00 && t.regs.vs == 0 && t.regs.vr == 5) = true := by decide
/-- V131. -/
theorem test_incvr : runs 0x0A (block { Regs.reset with vs := 127, vr := 5 } [])
    (fun t => t.regs.result == 0x00 && t.regs.vs == 127 && t.regs.vr == 6) = true := by decide
/-- V142. -/
theorem test_srst : runs 0x0F (block { Regs.reset with vs := 5, vr := 9, txctl := 0x35, done := true, ovr := true } (bufAt .log [0x12]))
    (fun t => t.regs == { Regs.reset with done := true } && statusByte t == 0x02 && t.mem == [(0x400, 0x12)]) = true := by
  decide
/-- V143, V146. -/
theorem test_reserved : [0x0B, 0x0C, 0x0D, 0x0E].all (fun c => runs c (block { Regs.reset with doneIe := true } [])
    fun t => t.regs.result == 0x11 && statusByte t == 0x02 && t.irq && !(memWrite 0x001 0x02 t).irq) = true := by decide
/-- V144. -/
theorem test_illegal : [0x10, 0x1F, 0x2C, 0x47, 0x80, 0xFF].all (fun c => runs c (block { Regs.reset with vs := 5 } [])
    fun t => t.regs == { Regs.reset with vs := 5, result := 0x11, done := true }) = true := by decide

/-! ### The host port -/

/-- V133, V145. -/
theorem test_host_writes : memWrite 0x008 0x55 State.reset = State.reset ∧
    memRead (memWrite 0x020 0xFF State.reset) 0x020 = .ok 0x3F := ⟨by decide, rfl⟩
/-- R81: the edges of the buffers in the address map. -/
theorem test_map_edges :
    locate 0x0FF = .reserved ∧ locate 0x100 = .buf .info 0 ∧ locate 0x1FE = .buf .info 254 ∧ locate 0x1FF = .reserved ∧
    locate 0x200 = .buf .raw 0 ∧ locate 0x34A = .buf .raw 330 ∧ locate 0x34B = .reserved ∧ locate 0x3FF = .reserved ∧
    locate 0x400 = .buf .log 0 ∧ locate 0x511 = .buf .log 273 ∧ locate 0x512 = .reserved ∧ locate 0xFFFF = .reserved := by
  decide
/-- R345: a command left in flight shows BUSY = 1 in STATUS, and a CMD write then sets OVR only. -/
theorem test_busy : goesTo (step (busyWith [.read 0x001])) (fun t => t.response == some 0x01) = true ∧
    goesTo (step (busyWith [.write 0x000 0x09])) (fun t =>
      t == { busyWith [] with regs := { Regs.reset with ovr := true } }) = true := by decide
/-- Part 4 of 95_test_vectors.md: the accesses of `stn TX_DEST, "NJ7P", 224` and of `cmd PARSE`, `wait`. -/
theorem test_notation : HostProgram.stn 0x022 [0x4E, 0x4A, 0x37, 0x50] 224 =
      [.write 0x022 0x04, .write 0x023 0xE0, .write 0x024 0x4E, .write 0x025 0x4A, .write 0x026 0x37, .write 0x027 0x50] ∧
    HostProgram.cmd .parse ++ HostProgram.wait = [.write 0x000 0x08, .read 0x001] := by decide

/-! ### Witnesses: for each obligation with hypotheses, states and operands that meet them, clause by clause -/

theorem witness_DecodeInvertsEncode : (Instr.illegal80 0x80).wf = true ∧ (Instr.illegal10 0x1F).wf = true ∧ Instr.srst.wf = true := by
  decide

theorem witness_StepRunsDecodedCommand :
    (idleWith [.write 0x000 0x07]).rst = false ∧ (idleWith [.write 0x000 0x07]).inFlight = none ∧
    (idleWith [.write 0x000 0x07]).inputs = .write 0x000 0x07 :: [] ∧ decode [0x07] = .ok (.asm, []) := ⟨rfl, rfl, rfl, rfl⟩

theorem witness_EngineCompletesCommandInFlight :
    ((busyWith []).rst = false ∧ (busyWith []).inFlight = some .parse ∧ (busyWith []).inputs = []) ∧
    (busyWith [.complete]).rst = false ∧ (busyWith [.complete]).inFlight = some .parse ∧
    (busyWith [.complete]).inputs = .complete :: [] := by decide

theorem witness_CmdWriteWhileBusyIsDropped :
    ((busyWith [.write 0x000 0x0F]).rst = false ∧ (busyWith [.write 0x000 0x0F]).inFlight = some .parse ∧
      (busyWith [.write 0x000 0x0F]).inputs = .write 0x000 0x0F :: []) ∧
    (busyWith [.issue 0xFF]).rst = false ∧ (busyWith [.issue 0xFF]).inFlight = some .parse ∧
    (busyWith [.issue 0xFF]).inputs = .issue 0xFF :: [] := by decide

theorem witness_OtherAccessWhileBusyFaults :
    (busyWith []).rst = false ∧ (busyWith []).inFlight = some .parse ∧
    ((0x000 : Addr) ≠ 0x001 ∧ (0x002 : Addr) ≠ 0x001 ∧ (busyWith [.read 0x000]).inputs = .read 0x000 :: []) ∧
    (0x001 : Addr) ≠ 0x000 ∧ (0xFFFF : Addr) ≠ 0x000 ∧ (busyWith [.write 0x001 0x06]).inputs = .write 0x001 0x06 :: [] := by
  decide

theorem witness_StatusReadShowsFlags :
    ((idleWith [.read 0x001]).rst = false ∧ (idleWith [.read 0x001]).inputs = .read 0x001 :: []) ∧
    (busyWith [.read 0x001]).rst = false ∧ (busyWith [.read 0x001]).inputs = .read 0x001 :: [] := by decide

theorem witness_HardResetFromAnyState :
    (busyWith [.rst true]).inputs = .rst true :: [] ∧ (busyWith [.powerOn]).inputs = .powerOn :: [] := by decide

theorem witness_HostReadsAfterReset :
    memRead State.reset 0x1FE = .error (.unwrittenRead 0x1FE) ∧ memRead State.reset 0x1FF = .ok 0 ∧
    memRead State.reset 0x511 = .error (.unwrittenRead 0x511) ∧ memRead State.reset 0x020 = .ok 0x20 := ⟨rfl, rfl, rfl, rfl⟩

theorem witness_HeldInResetIgnoresAccesses :
    (heldWith []).rst = true ∧ (heldWith [.read 0x100]).inputs = .read 0x100 :: [] ∧
    (heldWith [.write 0x000 0x07]).inputs = .write 0x000 0x07 :: [] ∧ (heldWith [.issue 0x07]).inputs = .issue 0x07 :: [] ∧
    (heldWith [.complete]).inputs = .complete :: [] ∧ (heldWith [.rst false]).inputs = .rst false :: [] := by decide

theorem witness_IdleHostAccess :
    (idleWith []).rst = false ∧ (idleWith []).inFlight = none ∧
    ((idleWith [.read 0x021]).inputs = .read 0x021 :: [] ∧ memRead (idleWith [.read 0x021]) 0x021 = .ok 0x0E) ∧
    ((idleWith [.read 0x100]).inputs = .read 0x100 :: [] ∧
      memRead (idleWith [.read 0x100]) 0x100 = .error (.unwrittenRead 0x100)) ∧
    (0x001 : Addr) ≠ 0x000 ∧ (idleWith [.write 0x001 0x06]).inputs = .write 0x001 0x06 :: [] :=
  ⟨rfl, rfl, ⟨rfl, rfl⟩, ⟨rfl, rfl⟩, by decide, rfl⟩

theorem witness_HostWriteReachesOnlyItsByte : (0x013 : Addr) ≠ 0x012 ∧ 0x401 ≠ (0x400 : Addr).toNat := by decide

theorem witness_WritableBytesReadBack :
    [0x010, 0x017, 0x01A, 0x01B, 0x021, 0x039, 0x100, 0x1FE, 0x200, 0x34A, 0x400, 0x511].all (fun a : Addr =>
      decide ((0x010 ≤ a.toNat ∧ a.toNat ≤ 0x017) ∨ a.toNat = 0x01A ∨ a.toNat = 0x01B ∨
        (0x021 ≤ a.toNat ∧ a.toNat ≤ 0x039) ∨ (0x100 ≤ a.toNat ∧ a.toNat ≤ 0x1FE) ∨
        (0x200 ≤ a.toNat ∧ a.toNat ≤ 0x34A) ∨ (0x400 ≤ a.toNat ∧ a.toNat ≤ 0x511))) = true ∧
    [0x010, 0x017, 0x01A, 0x01B, 0x021, 0x039, 0x100, 0x1FE, 0x200, 0x34A, 0x400, 0x511].all (fun a : Addr =>
      match memRead (memWrite a 0xA5 State.reset) a with | .ok v => v == 0xA5 | .error _ => false) = true := by decide

theorem witness_ReadOnlyAndReservedIgnoreWrites :
    [0x002, 0x008, 0x01D, 0x040, 0x04D, 0x050, 0x057, 0x060, 0x071, 0x004, 0x007, 0x00A, 0x019, 0x01E, 0x01F, 0x03A, 0x03F,
      0x04E, 0x04F, 0x058, 0x05F, 0x072, 0x0FF, 0x1FF, 0x34B, 0x3FF, 0x512, 0xFFFF].all (fun a : Addr =>
      decide (memWrite a 0xFF (block stations []) = block stations [])) = true := by decide

theorem witness_InterruptFollowsDoneAndEnable :
    Instr.nop ≠ .srst ∧ exec .nop State.reset = .next (nextOf (exec .nop State.reset)) ∧
    exec .srst State.reset = .next (nextOf (exec .srst State.reset)) ∧ (0x02 : Byte).getLsbD 1 = true ∧
    (idleWith [.rst true]).inputs = .rst true :: [] ∧ (idleWith [.powerOn]).inputs = .powerOn :: [] ∧
    step (idleWith [.rst true]) = .next (nextOf (step (idleWith [.rst true]))) ∧
    step (idleWith [.powerOn]) = .next (nextOf (step (idleWith [.powerOn]))) :=
  ⟨by decide, rfl, rfl, by decide, rfl, rfl, rfl, rfl⟩

theorem witness_PackAndBitsAreLsbFirst : 0 < [(0x80 : Byte)].length ∧ 7 < 8 ∧ (bits [(0x80 : Byte)])[8 * 0 + 7]? = some true := by
  decide

/-- A buffer that was filled with some bytes holds them. -/
theorem bufAt_holds (s : State) (b : Buf) (vs : List Byte) (h : s.mem = bufAt b vs) : s.holds b 0 vs := fun k hk => by
  rw [h, bufAt, cellsAt_read, Buf.address, Nat.zero_add, if_pos (Nat.le_add_right _ _), Nat.add_sub_cancel_left]

/-- A LOG of 274 one-filled bytes, the longest STUFF, FCSGEN and FCSCHK read (V24). -/
def fullLog : State := logBlock (List.replicate 274 0xFF)

/-- A LOG whose last byte under LOG_LEN = 274 is unwritten. -/
def shortLog : State := block { Regs.reset with logLen := 274 } (bufAt .log (List.replicate 273 0xFF))

theorem fullLog_holds : fullLog.holds .log 0 (List.replicate 274 0xFF) := bufAt_holds _ _ _ rfl

set_option maxRecDepth 100000 in
theorem shortLog_unwritten : shortLog.firstUnwritten .log 0 shortLog.regs.logLen.toNat 273 := by
  unfold State.firstUnwritten; decide +kernel

theorem witness_StuffCommand :
    274 < (block { Regs.reset with logLen := 275 } []).regs.logLen.toNat ∧
    (List.replicate 274 (0xFF : Byte)).length = fullLog.regs.logLen.toNat ∧ fullLog.regs.logLen.toNat ≤ 274 ∧
    fullLog.holds .log 0 (List.replicate 274 0xFF) ∧
    ([] : List Byte).length = State.reset.regs.logLen.toNat ∧ State.reset.holds .log 0 [] ∧
    shortLog.regs.logLen.toNat ≤ 274 ∧ shortLog.firstUnwritten .log 0 shortLog.regs.logLen.toNat 273 :=
  ⟨by decide +kernel, by decide +kernel, by decide +kernel, fullLog_holds, by decide, by unfold State.holds; decide, by decide, shortLog_unwritten⟩

theorem witness_FcsGenerateCommand :
    274 < (block { Regs.reset with logLen := 275 } []).regs.logLen.toNat ∧
    (List.replicate 274 (0xFF : Byte)).length = fullLog.regs.logLen.toNat ∧ fullLog.regs.logLen.toNat ≤ 274 ∧
    fullLog.holds .log 0 (List.replicate 274 0xFF) ∧
    shortLog.regs.logLen.toNat ≤ 274 ∧ shortLog.firstUnwritten .log 0 shortLog.regs.logLen.toNat 273 :=
  ⟨by decide +kernel, by decide +kernel, by decide +kernel, fullLog_holds, by decide, shortLog_unwritten⟩

/-- V37 and V39: both branches of the check. -/
theorem witness_FcsCheckCommand :
    274 < (block { Regs.reset with logLen := 275 } []).regs.logLen.toNat ∧
    (List.replicate 274 (0xFF : Byte)).length = fullLog.regs.logLen.toNat ∧ fullLog.regs.logLen.toNat ≤ 274 ∧
    fullLog.holds .log 0 (List.replicate 274 0xFF) ∧
    shortLog.regs.logLen.toNat ≤ 274 ∧ shortLog.firstUnwritten .log 0 shortLog.regs.logLen.toNat 273 ∧
    (crcX25 [0x31, 0x32, 0x33, 0x34, 0x35, 0x36, 0x37, 0x38, 0x39]).reverse = 0x7609 ∧ (0x906E : Half) ≠ 0x7609 :=
  ⟨by decide +kernel, by decide +kernel, by decide +kernel, fullLog_holds, by decide, shortLog_unwritten, by decide +kernel, by decide⟩

/-- A RAW of 275 bytes 0xAA, which destuffing leaves as they are (as in V27), with this RAW_BITS. -/
def rawAA (n : Half) : State := block { Regs.reset with rawBits := n } (bufAt .raw (List.replicate 275 0xAA))

set_option maxRecDepth 100000 in
theorem witness_DestuffCommand :
    2648 < (rawAA 2649).regs.rawBits.toNat ∧
    ((rawAA 2199).regs.rawBits.toNat ≤ 2648 ∧
      (List.replicate 275 (0xAA : Byte)).length = ((rawAA 2199).regs.rawBits.toNat + 7) / 8 ∧
      (rawAA 2199).holds .raw 0 (List.replicate 275 0xAA) ∧
      (destuff ((bits (List.replicate 275 0xAA)).take 2199)).length / 8 = 274) ∧
    ((rawAA 2200).regs.rawBits.toNat ≤ 2648 ∧
      (List.replicate 275 (0xAA : Byte)).length = ((rawAA 2200).regs.rawBits.toNat + 7) / 8 ∧
      (rawAA 2200).holds .raw 0 (List.replicate 275 0xAA) ∧
      (destuff ((bits (List.replicate 275 0xAA)).take 2200)).length / 8 = 275) ∧
    (block { Regs.reset with rawBits := 9 } (bufAt .raw [0xDF])).regs.rawBits.toNat ≤ 2648 ∧
    (block { Regs.reset with rawBits := 9 } (bufAt .raw [0xDF])).firstUnwritten .raw 0 ((9 + 7) / 8) 1 := by
  have h (n : Half) : (rawAA n).holds .raw 0 (List.replicate 275 0xAA) := bufAt_holds _ _ _ rfl
  unfold State.firstUnwritten
  exact ⟨by decide, ⟨by decide, by decide +kernel, h _, by decide +kernel⟩, ⟨by decide, by decide +kernel, h _, by decide +kernel⟩,
    by decide, by decide⟩

theorem witness_StuffThenDestuffRestoresLog :
    ([0xFF] : List Byte).length = (logBlock [0xFF]).regs.logLen.toNat ∧ (logBlock [0xFF]).regs.logLen.toNat ≤ 274 ∧
    (logBlock [0xFF]).holds .log 0 [0xFF] ∧
    exec .stuff (logBlock [0xFF]) = .next (nextOf (exec .stuff (logBlock [0xFF]))) ∧
    (nextOf (exec .stuff (logBlock [0xFF]))).regs.rawBits = 9 :=
  ⟨by decide, by decide, by unfold State.holds; decide, (next_of_goesTo (p := fun _ => true) (by decide)).1, by decide⟩

theorem bits_eq_beyond (s t : List Byte) (k : Nat) (hs : 8 * s.length ≤ k) (h : t.length = s.length) : (bits t)[k]? = (bits s)[k]? := by
  rw [List.getElem?_eq_none (by rw [bits_length]; omega), List.getElem?_eq_none (by rw [bits_length]; omega)]

theorem witness_FcsDetectsSingleBitError :
    ([0x80] : List Byte).length = ([0x00] : List Byte).length ∧ 7 < 8 * ([0x00] : List Byte).length ∧
    (∀ j, j ≠ 7 → (bits [0x80])[j]? = (bits [0x00])[j]?) ∧ (bits [0x80])[7]? ≠ (bits [0x00])[7]? := by
  refine ⟨rfl, by decide, fun j hj => ?_, by decide⟩
  by_cases h : j < 8
  · interval_cases j <;> first | rfl | exact absurd rfl hj
  · exact bits_eq_beyond _ _ _ (by simp; omega) rfl

theorem witness_FcsDetectsBurstError :
    ([0xFF, 0xFF] : List Byte).length = ([0x00, 0x00] : List Byte).length ∧ ([0xFF, 0xFF] : List Byte) ≠ [0x00, 0x00] ∧
    ∀ j, j < 0 ∨ 0 + 16 ≤ j → (bits [0xFF, 0xFF])[j]? = (bits [0x00, 0x00])[j]? := by
  refine ⟨rfl, by decide, fun j hj => bits_eq_beyond _ _ _ (by simp; omega) rfl⟩

theorem witness_AddressEncodeCommand :
    6 < ({ stations with txDest := { nj7p with len := 7 } } : Regs).txDest.len.toNat ∧
    6 < ({ stations with txSrc := { n7lem with len := 7 } } : Regs).txSrc.len.toNat ∧
    ({ stations with txDest := { nj7p with len := 6 }, txSrc := { n7lem with len := 6 } } : Regs).txDest.len.toNat ≤ 6 ∧
    ({ stations with txDest := { nj7p with len := 6 }, txSrc := { n7lem with len := 6 } } : Regs).txSrc.len.toNat ≤ 6 := by
  decide

theorem witness_AddressDecodeCommand :
    274 < (block { Regs.reset with logLen := 275 } []).regs.logLen.toNat ∧
    (block { Regs.reset with logLen := 13 } []).regs.logLen.toNat < 14 ∧
    (addrEx.length = 14 ∧ 14 ≤ (logBlock addrEx).regs.logLen.toNat ∧ (logBlock addrEx).regs.logLen.toNat ≤ 274 ∧
      (logBlock addrEx).holds .log 0 addrEx) ∧
    14 ≤ (block { Regs.reset with logLen := 274 } (bufAt .log (addrEx.take 13))).regs.logLen.toNat ∧
    (block { Regs.reset with logLen := 274 } (bufAt .log (addrEx.take 13))).regs.logLen.toNat ≤ 274 ∧
    (block { Regs.reset with logLen := 274 } (bufAt .log (addrEx.take 13))).firstUnwritten .log 0 14 13 := by
  unfold State.holds State.firstUnwritten; decide

theorem witness_AddressDecodeInvertsEncode :
    nj7p.len.toNat ≤ 6 ∧ nj7p.ssid.getLsbD 0 = false ∧ Station.reset.len.toNat ≤ 6 ∧ ({ nj7p with len := 6 } : Station).len.toNat ≤ 6 := by
  decide

theorem witness_AsmArgumentChecks :
    ((asmBlock 0x26).regs.txctl.extractLsb' 0 3).toNat = 6 ∧
    (((asmBlock 0x25).regs.txctl.extractLsb' 0 3).toNat = 5 ∧ ((asmBlock 0x25).regs.txctl.extractLsb' 4 2).toNat = 2) ∧
    (((asmBlock 0x14).regs.txctl.extractLsb' 0 3).toNat = 4 ∧ ((asmBlock 0x14).regs.txctl.extractLsb' 4 2).toNat = 1) ∧
    (((asmBlock 0x15).regs.txctl.extractLsb' 0 3).toNat = 5 ∧ ((asmBlock 0x15).regs.txctl.extractLsb' 4 2).toNat = 1) ∧
    (((asmBlock 0x20).regs.txctl.extractLsb' 0 3).toNat = 0 ∧ ((asmBlock 0x20).regs.txctl.extractLsb' 4 2).toNat = 2) ∧
    (13 : Byte) ≠ 14 ∧ (asmBlock 0x20).regs.txAlen = 14 ∧ 6 < ({ nj7p with len := 7 } : Station).len.toNat ∧
    (asmBlock 0x20).regs.txDest.len.toNat ≤ 6 ∧ (asmBlock 0x20).regs.txSrc.len.toNat ≤ 6 ∧ 255 < (256 : Half).toNat := by
  decide

/-- An ASM state whose INFO holds 255 bytes, INFO_LEN 255, with this TXCTL. -/
def asmFull (txctl : BitVec 6) : State :=
  block { stations with txctl := txctl, infoLen := 255 } (bufAt .info (List.replicate 255 0xFF))

set_option maxRecDepth 100000 in
theorem witness_AsmAssembles :
    ((asmFull 0x20).regs.AsmLegal .info ∧ (List.replicate 255 (0xFF : Byte)).length = payloadLen .info (asmFull 0x20).regs ∧
      (asmFull 0x20).holds .info 0 (List.replicate 255 0xFF)) ∧
    ((asmFull 0x2C).regs.AsmLegal (.sup 3) ∧ ([] : List Byte).length = payloadLen (.sup 3) (asmFull 0x2C).regs ∧
      (asmFull 0x2C).holds .info 0 []) ∧
    ((asmBlock 0x15).regs.AsmLegal .ui ∧ hello.length = payloadLen .ui (asmBlock 0x15).regs ∧ (asmBlock 0x15).holds .info 0 hello) ∧
    (block { stations with infoLen := 11 } (bufAt .info (hello.take 10))).firstUnwritten .info 0 11 10 := by
  refine ⟨⟨⟨by decide, by decide, by decide, by decide, by decide, by decide⟩, by decide, ?_⟩,
    ⟨⟨by decide, by decide, by decide, by decide, by decide, by decide⟩, by decide, ?_⟩,
    ⟨⟨by decide, by decide, by decide, by decide, by decide, by decide⟩, by decide, ?_⟩, ?_⟩ <;>
    first | exact bufAt_holds _ _ _ rfl | exact State.holds_nil _ _ _ | (unfold State.firstUnwritten; decide)

theorem witness_AsmFrameLayout : (List.replicate 255 (0xFF : Byte)).length ≤ 255 ∧ hello.length ≤ 255 := by decide +kernel

/-- ASM of this block completes OK. -/
theorem asm_ok (s : State) (h : goesTo (exec .asm s) (fun t => t.regs.result == 0x00) = true) :
    exec .asm s = .next (nextOf (exec .asm s)) ∧ (nextOf (exec .asm s)).regs.result = 0x00 :=
  ⟨(next_of_goesTo h).1, by simpa using (next_of_goesTo h).2⟩

set_option maxRecDepth 100000 in
theorem witness_AsmOutputLengths :
    (frameType ((asmFull 0x20).regs.txctl.extractLsb' 0 3) = some .info ∧
      goesTo (exec .asm (asmFull 0x20)) (fun t => t.regs.result == 0x00) = true) ∧
    (frameType ((asmFull 0x2C).regs.txctl.extractLsb' 0 3) = some (.sup 3) ∧
      goesTo (exec .asm (asmFull 0x2C)) (fun t => t.regs.result == 0x00) = true) ∧
    frameType ((asmBlock 0x15).regs.txctl.extractLsb' 0 3) = some .ui ∧
    goesTo (exec .asm (asmBlock 0x15)) (fun t => t.regs.result == 0x00) = true := by decide +kernel

theorem witness_FailingAsmWritesNothing :
    exec .asm (asmBlock 0x26) = .next (nextOf (exec .asm (asmBlock 0x26))) ∧ (nextOf (exec .asm (asmBlock 0x26))).regs.result ≠ 0x00 :=
  ⟨rfl, by decide⟩

set_option maxRecDepth 100000 in
/-- An I frame whose INFO differs only past INFO_LEN; an S frame whose INFO_LEN and INFO differ; a fault. -/
theorem witness_AsmDependsOnlyOnItsOperands :
    (SameAsmOperands (asmBlock 0x20) { asmBlock 0x20 with mem := bufAt .info (hello ++ [0x55]), rst := true } ∧
      exec .asm (asmBlock 0x20) = .next (nextOf (exec .asm (asmBlock 0x20))) ∧
      (nextOf (exec .asm (asmBlock 0x20))).regs.result = 0x00) ∧
    (SameAsmOperands (asmBlock 0x2A) (block { stations with txctl := 0x2A, infoLen := 300 } []) ∧
      exec .asm (asmBlock 0x2A) = .next (nextOf (exec .asm (asmBlock 0x2A))) ∧
      (nextOf (exec .asm (asmBlock 0x2A))).regs.result = 0x00) ∧
    faults (exec .asm (block { stations with infoLen := 11 } (bufAt .info (hello.take 10)))) (.unwrittenRead 0x10A) = true := by
  have h := asm_ok (asmBlock 0x20) (by decide +kernel)
  have h' := asm_ok (asmBlock 0x2A) (by decide +kernel)
  have hsup : ¬ readsInfo (asmBlock 0x2A).regs.txctl := by
    rintro ⟨ft, h1, h2⟩
    have : ft = .sup 1 := (Option.some.inj h1).symm
    subst this; cases h2
  have hinfo : ∀ k, k < 11 → (asmBlock 0x20).mem.read (0x100 + k) = Memory.read (bufAt .info (hello ++ [0x55])) (0x100 + k) := by
    decide
  exact ⟨⟨⟨rfl, rfl, rfl, rfl, rfl, rfl, fun _ => rfl, fun _ k hk _ => hinfo k hk⟩, h.1, h.2⟩,
    ⟨⟨rfl, rfl, rfl, rfl, rfl, rfl, fun hr => absurd hr hsup, fun hr => absurd hr hsup⟩, h'.1, h'.2⟩, by decide +kernel⟩

theorem witness_ParseArgumentChecks :
    6 < (block { stations with localStn := { nj7p with len := 7 } } []).regs.localStn.len.toNat ∧
    (block stations []).regs.localStn.len.toNat ≤ 6 ∧ 331 < (block { stations with rawLen := 332 } []).regs.rawLen.toNat ∧
    (block stations []).regs.rawLen.toNat = 0 := by decide

theorem witness_ParseFlagDetection :
    (1 = (rawBlock [0x7E]).regs.rawLen.toNat ∧ (rawBlock [0x7E]).regs.localStn.len.toNat ≤ 6) ∧
    331 = (block { stations with rawLen := 331 } []).regs.rawLen.toNat ∧
    (block { stations with rawLen := 331 } []).mem.read 0x200 = none ∧
    ((rawBlock [0x7F]).mem.read 0x200 = some 0x7F ∧ (0x7F : Byte) ≠ 0x7E) ∧
    ((block { stations with rawLen := 2 } (bufAt .raw [0x7E])).mem.read 0x200 = some 0x7E ∧
      (block { stations with rawLen := 2 } (bufAt .raw [0x7E])).mem.read (0x200 + (2 - 1)) = none) ∧
    (rawBlock [0x7E, 0x00]).mem.read (0x200 + (2 - 1)) = some 0x00 ∧
    ((block { stations with rawLen := 3 } [(0x200, 0x7E), (0x202, 0x7E)]).mem.read (0x200 + (3 - 1)) = some 0x7E ∧
      (block { stations with rawLen := 3 } [(0x200, 0x7E), (0x202, 0x7E)]).firstUnwritten .raw 1 (3 - 2) 1) := by
  unfold State.firstUnwritten; decide

/-- A raw frame of this interior, received. -/
def received (interior : List Byte) : State := rawBlock ([0x7E] ++ interior ++ [0x7E])

theorem received_read (interior : List Byte) (k : Nat) :
    (received interior).mem.read (0x200 + k) = ([0x7E] ++ interior ++ [0x7E])[k]? := by
  show Memory.read (cellsAt 0x200 _) _ = _
  rw [cellsAt_read, if_pos (Nat.le_add_right _ _), Nat.add_sub_cancel_left]

theorem received_receives {interior : List Byte} (h : interior.length ≤ 329) : (received interior).Receives interior := by
  have hn : (received interior).regs.rawLen.toNat = interior.length + 2 := by
    show (BitVec.ofNat 16 ([0x7E] ++ interior ++ [0x7E]).length).toNat = _
    rw [BitVec.toNat_ofNat]; simp; omega
  refine ⟨(by decide : nj7p.len.toNat ≤ 6), by omega, by omega, ?_, ?_, by omega, fun k hk => ?_⟩
  · have := received_read interior 0
    simpa using this
  · rw [hn, received_read]; simp
  · show (received interior).mem.read (0x200 + (1 + k)) = _
    rw [received_read, List.append_assoc, List.getElem?_append_right (by simp), List.getElem?_append_left (by simpa using hk)]
    simp

set_option maxRecDepth 100000 in
/-- At the boundaries of each clause; the last has RAW_LEN = 1. -/
theorem witness_ParseLengthClassification :
    ((received (List.replicate 275 0xAA)).Receives (List.replicate 275 0xAA) ∧
      (destuff (bits (List.replicate 275 0xAA))).length / 8 = 275) ∧
    ((received (List.replicate 273 0xAA)).Receives (List.replicate 273 0xAA) ∧
      (destuff (bits (List.replicate 273 0xAA))).length / 8 = 273) ∧
    ((received (List.replicate 19 0xAA)).Receives (List.replicate 19 0xAA) ∧
      (destuff (bits (List.replicate 19 0xAA))).length / 8 = 19) ∧
    (rawBlock [0x7E]).Receives [] ∧ (destuff (bits [])).length / 8 = 0 :=
  ⟨⟨received_receives (by simp), by decide +kernel⟩, ⟨received_receives (by simp), by decide +kernel⟩,
    ⟨received_receives (by simp), by decide +kernel⟩,
    ⟨by decide, by decide, by decide, by decide, by decide, by decide, State.holds_nil _ _ _⟩, by decide⟩

/-- The block that receives the raw frame of this logical frame. -/
def receivedFrame (frame : List Byte) : State := received (pack (stuffedBits frame))

/-- The destuffed interior of that raw frame. -/
def channelBits (frame : List Byte) : List Bool := destuff (bits (pack (stuffedBits frame)))

/-- The tests by which it is received as a frame of a legal length. -/
def frameCheck (frame : List Byte) : Bool :=
  decide ((pack (stuffedBits frame)).length ≤ 329) &&
  decide (frame = pack ((channelBits frame).take (8 * ((channelBits frame).length / 8)))) &&
  decide (frame.length = 18 ∨ frame.length = 274)

theorem receives_frame {frame : List Byte} (h : frameCheck frame = true) :
    (receivedFrame frame).ReceivesFrame (channelBits frame) frame := by
  simp only [frameCheck, Bool.and_eq_true, decide_eq_true_eq] at h
  exact ⟨⟨_, received_receives h.1.1, rfl⟩, h.1.2, h.2⟩

/-- V121's frame, its FCS bytes 00 00; and a 274-byte frame with its FCS changed. -/
def badSup : List Byte := addrEx ++ [0x01, 0x00, 0x00, 0x00]
def badInfo : List Byte := infoBody [0x00, 0x00, 0xF0] ++ [0x97, 0xDF]

set_option maxRecDepth 100000 in
theorem witness_ParseIntegrityCheck :
    ((receivedFrame badSup).ReceivesFrame (channelBits badSup) badSup ∧ ¬ fcsGood badSup) ∧
    (receivedFrame badInfo).ReceivesFrame (channelBits badInfo) badInfo ∧ ¬ fcsGood badInfo := by
  unfold fcsGood
  exact ⟨⟨receives_frame (by decide +kernel), by decide +kernel⟩, receives_frame (by decide +kernel), by decide +kernel⟩

/-- A frame sent from "N7LEM" to itself, which LOCAL = "NJ7P" does not match. -/
def otherSup : List Byte := withFcs (encAddr n7lem n7lem ++ [0x01, 0x00])

theorem witness_ParseAddressMismatch :
    (receivedFrame otherSup).ReceivesFrame (channelBits otherSup) otherSup ∧ fcsGood otherSup ∧
    otherSup.take 7 ≠ encSub (receivedFrame otherSup).regs.localStn false := by
  unfold fcsGood
  exact ⟨receives_frame (by decide +kernel), by decide +kernel, by decide +kernel⟩

/-- The I-length frames of V110, V111 and V113, and the I frame that the fresh block expects. -/
def infoFrame (c : List Byte) : List Byte := withFcs (infoBody c)

/-- The tests by which the section 8 station receives a good frame of this length for itself. -/
def goodCheck (frame : List Byte) (n : Nat) : Bool :=
  frameCheck frame && decide (frame.getD (frame.length - 1) 0 ++ frame.getD (frame.length - 2) 0 =
    fcsCompute (frame.take (frame.length - 2))) && decide (frame.take 7 = encSub nj7p false) && decide (frame.length = n)

theorem good_of_check {frame : List Byte} {n : Nat} (h : goodCheck frame n = true) :
    (receivedFrame frame).ReceivesFrame (channelBits frame) frame ∧ fcsGood frame ∧
    frame.take 7 = encSub (receivedFrame frame).regs.localStn false ∧ frame.length = n := by
  simp only [goodCheck, Bool.and_eq_true, decide_eq_true_eq] at h
  exact ⟨receives_frame h.1.1.1, h.1.1.2, h.1.2, h.2⟩

set_option maxRecDepth 100000 in
theorem goodFrames : [[0x01, 0x00, 0xF0], [0x02, 0x00, 0xF0], [0x00, 0x00, 0xCF], [0x00, 0x00, 0xF0]].all
    (fun c => goodCheck (infoFrame c) 274) = true := by decide +kernel

theorem good_info {c : List Byte} (h : c ∈ [[(0x01 : Byte), 0x00, 0xF0], [0x02, 0x00, 0xF0], [0x00, 0x00, 0xCF], [0x00, 0x00, 0xF0]]) :
    (receivedFrame (infoFrame c)).ReceivesFrame (channelBits (infoFrame c)) (infoFrame c) ∧ fcsGood (infoFrame c) ∧
    (infoFrame c).take 7 = encSub (receivedFrame (infoFrame c)).regs.localStn false ∧ (infoFrame c).length = 274 :=
  good_of_check (List.all_eq_true.mp goodFrames c h)

theorem witness_ParseInfoRejections (c : List Byte) :
    (c ∈ [[(0x01 : Byte), 0x00, 0xF0], [0x02, 0x00, 0xF0], [0x00, 0x00, 0xCF], [0x00, 0x00, 0xF0]] →
      (receivedFrame (infoFrame c)).ReceivesFrame (channelBits (infoFrame c)) (infoFrame c) ∧ fcsGood (infoFrame c) ∧
      (infoFrame c).take 7 = encSub (receivedFrame (infoFrame c)).regs.localStn false ∧ (infoFrame c).length = 274) ∧
    ((infoFrame [0x01, 0x00, 0xF0]).getD 14 0).getLsbD 0 = true ∧
    (((infoFrame [0x02, 0x00, 0xF0]).getD 14 0).getLsbD 0 = false ∧
      ((infoFrame [0x02, 0x00, 0xF0]).getD 14 0).toNat / 2 ≠ (receivedFrame (infoFrame [0x02, 0x00, 0xF0])).regs.vr.toNat) ∧
    ((infoFrame [0x00, 0x00, 0xCF]).getD 14 0).getLsbD 0 = false ∧
    ((infoFrame [0x00, 0x00, 0xCF]).getD 14 0).toNat / 2 = (receivedFrame (infoFrame [0x00, 0x00, 0xCF])).regs.vr.toNat ∧
    (infoFrame [0x00, 0x00, 0xCF]).getD 16 0 ≠ 0xF0 :=
  ⟨good_info, by decide +kernel, ⟨by decide +kernel, by decide +kernel⟩, by decide +kernel, by decide +kernel, by decide +kernel⟩

theorem witness_ParseAcceptsInfoFrame :
    (receivedFrame (infoFrame [0x00, 0x00, 0xF0])).ReceivesFrame (channelBits (infoFrame [0x00, 0x00, 0xF0]))
      (infoFrame [0x00, 0x00, 0xF0]) ∧
    fcsGood (infoFrame [0x00, 0x00, 0xF0]) ∧
    (infoFrame [0x00, 0x00, 0xF0]).take 7 = encSub (receivedFrame (infoFrame [0x00, 0x00, 0xF0])).regs.localStn false ∧
    (infoFrame [0x00, 0x00, 0xF0]).length = 274 ∧
    ((infoFrame [0x00, 0x00, 0xF0]).getD 14 0).getLsbD 0 = false ∧
    ((infoFrame [0x00, 0x00, 0xF0]).getD 14 0).toNat / 2 = (receivedFrame (infoFrame [0x00, 0x00, 0xF0])).regs.vr.toNat ∧
    (infoFrame [0x00, 0x00, 0xF0]).getD 16 0 = 0xF0 := by
  have h := good_info (c := [0x00, 0x00, 0xF0]) (by decide)
  exact ⟨h.1, h.2.1, h.2.2.1, h.2.2.2, by decide +kernel, by decide +kernel, by decide +kernel⟩

/-- The S frames of V115 and V117. -/
def supFrame (c : List Byte) : List Byte := withFcs (addrEx ++ c)

theorem witness_ParseSupervisoryFrame :
    ((receivedFrame (supFrame [0x01, 0x0B])).ReceivesFrame (channelBits (supFrame [0x01, 0x0B])) (supFrame [0x01, 0x0B]) ∧
      fcsGood (supFrame [0x01, 0x0B]) ∧
      (supFrame [0x01, 0x0B]).take 7 = encSub (receivedFrame (supFrame [0x01, 0x0B])).regs.localStn false ∧
      (supFrame [0x01, 0x0B]).length = 18 ∧ (supFrame [0x01, 0x0B]).getD 14 0 ∈ [(0x01 : Byte), 0x05, 0x09, 0x0D]) ∧
    ((receivedFrame (supFrame [0x03, 0x00])).ReceivesFrame (channelBits (supFrame [0x03, 0x00])) (supFrame [0x03, 0x00]) ∧
      fcsGood (supFrame [0x03, 0x00]) ∧
      (supFrame [0x03, 0x00]).take 7 = encSub (receivedFrame (supFrame [0x03, 0x00])).regs.localStn false ∧
      (supFrame [0x03, 0x00]).length = 18 ∧ (supFrame [0x03, 0x00]).getD 14 0 ∉ [(0x01 : Byte), 0x05, 0x09, 0x0D]) := by
  have h := good_of_check (frame := supFrame [0x01, 0x0B]) (n := 18) (by decide +kernel)
  have h' := good_of_check (frame := supFrame [0x03, 0x00]) (n := 18) (by decide +kernel)
  exact ⟨⟨h.1, h.2.1, h.2.2.1, h.2.2.2, by decide +kernel⟩, h'.1, h'.2.1, h'.2.2.1, h'.2.2.2, by decide +kernel⟩

set_option maxRecDepth 100000 in
/-- A rejected frame, an accepted S frame, an accepted I frame. -/
theorem witness_ParseWritesOnlyReceiveState :
    goesTo (exec .parse (received [])) (fun t => t.regs.rxKind == 0 && t.regs.result != 0x00) = true ∧
    goesTo (exec .parse (receivedFrame (supFrame [0x01, 0x0B]))) (fun t => t.regs.rxKind == 2 && t.regs.result == 0x00) = true ∧
    goesTo (exec .parse (receivedFrame (infoFrame [0x00, 0x00, 0xF0]))) (fun t => t.regs.rxKind == 1 && t.regs.result == 0x00) = true := by
  decide +kernel

set_option maxRecDepth 100000 in
/-- W1: the state ASM leaves is itself the receiving one. -/
theorem witness_AssembleThenParseDelivers :
    (asmBlock 0x20).regs.txctl.extractLsb' 0 3 = 0 ∧ hello.length = (asmBlock 0x20).regs.infoLen.toNat ∧
    (asmBlock 0x20).holds .info 0 hello ∧
    exec .asm (asmBlock 0x20) = .next (nextOf (exec .asm (asmBlock 0x20))) ∧
    (nextOf (exec .asm (asmBlock 0x20))).regs.result = 0x00 ∧
    (nextOf (exec .asm (asmBlock 0x20))).regs.localStn.len.toNat ≤ 6 ∧
    encSub (nextOf (exec .asm (asmBlock 0x20))).regs.localStn false = encSub (asmBlock 0x20).regs.txDest false ∧
    (nextOf (exec .asm (asmBlock 0x20))).regs.vr = (asmBlock 0x20).regs.vs := by
  have h := asm_ok (asmBlock 0x20) (by decide +kernel)
  exact ⟨by decide, by decide, by unfold State.holds; decide, h.1, h.2, by decide +kernel, by decide +kernel, by decide +kernel⟩

/-- T9: the section 8 I frame with byte `k` of its information field changed. -/
def corrupted (k : Nat) : List Byte := (infoFrame [0x00, 0x00, 0xF0]).set k 0xFF

set_option maxRecDepth 100000 in
theorem witness_CorruptedInfoByteFailsIntegrity (k : Nat) (h : k = 17 ∨ k = 271) :
    (infoBody [0x00, 0x00, 0xF0]).length = 272 ∧ 17 ≤ k ∧ k ≤ 271 ∧ some (0xFF : Byte) ≠ (infoFrame [0x00, 0x00, 0xF0])[k]? ∧
    (rawBlock (rawFrame (corrupted k))).regs.localStn.len.toNat ≤ 6 ∧
    (rawBlock (rawFrame (corrupted k))).regs.rawLen.toNat = (rawFrame (corrupted k)).length ∧
    (rawBlock (rawFrame (corrupted k))).holds .raw 0 (rawFrame (corrupted k)) := by
  refine ⟨by decide +kernel, by omega, by omega, ?_, (by decide : nj7p.len.toNat ≤ 6), ?_, bufAt_holds _ _ _ rfl⟩ <;>
    rcases h with rfl | rfl <;> decide +kernel

theorem witness_NonCommandsCompleteIllegal : Instr.illegal10 0x1F ∈
    [Instr.reserved0b, .reserved0c, .reserved0d, .reserved0e, .illegal80 0x1F, .illegal40 0x1F, .illegal20 0x1F, .illegal10 0x1F] := by
  decide

set_option maxRecDepth 100000 in
/-- Each modifier of a counter, and a command that is none. -/
theorem witness_CountersChangeOnlyByTheirModifiers :
    goesTo (exec .incvs State.reset) (fun t => t.regs.vs == 1) = true ∧
    goesTo (exec .incvr State.reset) (fun t => t.regs.vr == 1) = true ∧
    goesTo (exec .asm (asmBlock 0x20)) (fun t => t.regs.vs == 1 && t.regs.vr == 0) = true ∧
    goesTo (exec .parse (receivedFrame (infoFrame [0x00, 0x00, 0xF0]))) (fun t => t.regs.vr == 1 && t.regs.vs == 0) = true ∧
    goesTo (exec .nop State.reset) (fun t => t.regs.vs == 0 && t.regs.vr == 0) = true ∧
    goesTo (step (busyWith [.rst true])) (fun t => t.regs.vs == 0 && t.regs.vr == 0) = true := by decide +kernel

theorem witness_EveryCommandFinishes :
    goesTo (exec .fcsgen State.reset) (fun _ => true) = true ∧ Instr.fcsgen ≠ .srst := by decide

theorem witness_CommandsFaultOnlyOnUnwrittenBytes :
    faults (exec .fcsgen (block { Regs.reset with logLen := 1 } [])) (.unwrittenRead 0x400) = true ∧
    faults (exec .destuff (block { Regs.reset with rawBits := 2648 } (bufAt .raw [0xFF]))) (.unwrittenRead 0x201) = true := by
  decide

theorem witness_WaitingHostMeetsNoHazard :
    (idleWith [.write 0x000 0x09, .read 0x001, .write 0x000 0x0C]).hostWaits ∧
    goesTo (step (idleWith [.write 0x000 0x09, .read 0x001, .write 0x000 0x0C])) (fun t => t.regs.done) = true :=
  ⟨⟨rfl, by decide⟩, by decide⟩

/-- A state of the invariant with a command in flight, and one held in reset; a step of each. -/
theorem witness_StepKeepsInvariant :
    Inv (busyWith [.read 0x001]) ∧ goesTo (step (busyWith [.read 0x001])) (fun t => t.inFlight == some .parse) = true ∧
    Inv (heldWith [.write 0x000 0x07]) ∧ goesTo (step (heldWith [.write 0x000 0x07])) (fun t => t.rst) = true := by
  refine ⟨⟨⟨List.Pairwise.nil, rfl⟩, by decide, ⟨by decide, by decide, by decide⟩, ⟨by decide, by decide, by decide⟩,
    ⟨by decide, by decide, by decide⟩, (fun h => by cases h), (fun i h => by cases h; rfl)⟩, by decide,
    ⟨⟨List.Pairwise.nil, rfl⟩, by decide, ⟨by decide, by decide, by decide⟩, ⟨by decide, by decide, by decide⟩,
    ⟨by decide, by decide, by decide⟩, (fun _ => ⟨rfl, rfl, rfl⟩), (fun i h => by cases h)⟩, by decide⟩

/-- Each clause at its boundaries: 0x00 and 0x0F are commands, 0x0B, 0x0E, 0x10 and 0xFF are not. -/
theorem witness_IssueLeavesCommandInFlight :
    (idleWith [.issue 0x0F]).rst = false ∧ (idleWith [.issue 0x0F]).inFlight = none ∧
    (idleWith [.issue 0x0F]).inputs = .issue 0x0F :: [] ∧ decode [0x0F] = .ok (.srst, []) ∧
    [0x00, 0x0A, 0x0F].all (fun c : Byte => decide (c.toNat < 0x10 ∧ c ∉ [(0x0B : Byte), 0x0C, 0x0D, 0x0E]) &&
      goesTo (step (idleWith [.issue c])) (fun t => t == { busyWith [] with inFlight := some (decodeByte c) })) = true ∧
    [0x0B, 0x0E, 0x10, 0xFF].all (fun c : Byte => decide (0x10 ≤ c.toNat ∨ c ∈ [(0x0B : Byte), 0x0C, 0x0D, 0x0E]) &&
      goesTo (step (idleWith [.issue c])) (fun t => t.inFlight == none && t.regs.result == 0x11)) = true :=
  ⟨rfl, rfl, rfl, rfl, by decide, by decide⟩

end Sys2Proof.Tests
end

/-! # Every step keeps the invariant (O57)

A command relies on, and keeps, only a part of the invariant: canonical memory and legal RX and DEC registers. `State.Ready`
is that part, with RST low; a command that ends in `completed` from a ready state ends in a state of the whole invariant. -/
namespace Sys2Proof.Machine

/-! ### The received part of the register file -/

/-- The RX and DEC registers (R45, R46), every other register at its reset value. -/
def Regs.received (r : Regs) : Regs :=
  { Regs.reset with
    rxKind := r.rxKind, rxNs := r.rxNs, rxNr := r.rxNr, rxPf := r.rxPf, rxScode := r.rxScode
    rxCtrl0 := r.rxCtrl0, rxCtrl1 := r.rxCtrl1, rxPid := r.rxPid, decDest := r.decDest, decSrc := r.decSrc }

/-- R45, R46: the received registers are legal. -/
structure Regs.ReceivedLegal (r : Regs) : Prop where
  receive : r.ReceiveLegal
  decDest : r.decDest.Legal
  decSrc : r.decSrc.Legal

theorem Regs.receivedLegal_received {r : Regs} : r.received.ReceivedLegal ↔ r.ReceivedLegal :=
  ⟨fun h => ⟨⟨h.receive.kind, h.receive.info, h.receive.sup⟩, h.decDest, h.decSrc⟩,
    fun h => ⟨⟨h.receive.kind, h.receive.info, h.receive.sup⟩, h.decDest, h.decSrc⟩⟩

theorem Regs.ReceivedLegal.of_received_eq {r r' : Regs} (h : r.ReceivedLegal) (he : r'.received = r.received) :
    r'.ReceivedLegal := by
  rw [← receivedLegal_received, he, receivedLegal_received]
  exact h

theorem Regs.rxKind_eq_of_received_eq {r r' : Regs} (h : r'.received = r.received) : r'.rxKind = r.rxKind :=
  (congrArg Regs.rxKind h : r'.received.rxKind = r.received.rxKind)

/-- With RX_KIND 0 no RX register says anything. -/
theorem Regs.receivedLegal_of_kind_zero {r : Regs} (hk : r.rxKind = 0) (hd : r.decDest.Legal) (hs : r.decSrc.Legal) :
    r.ReceivedLegal :=
  ⟨⟨by simp [hk], by simp [hk], by simp [hk]⟩, hd, hs⟩

theorem Decoded.reset_legal : Decoded.reset.Legal := ⟨by decide, rfl, by decide⟩

theorem Regs.reset_receivedLegal : Regs.reset.ReceivedLegal :=
  receivedLegal_of_kind_zero rfl Decoded.reset_legal Decoded.reset_legal

@[simp] theorem writeReg_received (k : Nat) (v : Byte) (r : Regs) (g : Reg) :
    (writeReg k v r g).received = r.received := by
  cases g <;> rfl

@[simp] theorem writeReg_result (k : Nat) (v : Byte) (r : Regs) (g : Reg) : (writeReg k v r g).result = r.result := by
  cases g <;> rfl

@[simp] theorem State.logDestuffed_received (s : State) (d : List Bool) :
    (s.logDestuffed d).regs.received = s.regs.received := by
  unfold State.logDestuffed; split <;> rfl

theorem decLen_le (b : List Byte) : decLen b ≤ 6 := Nat.sub_le _ _

/-- R204: a decoded character has lost its low bit to the shift. -/
theorem decChars_lt {b : List Byte} {c : Byte} (h : c ∈ decChars b) : c.toNat < 128 := by
  obtain ⟨x, -, rfl⟩ := List.mem_map.mp h
  rw [BitVec.ushiftRight_eq, BitVec.toNat_ushiftRight, Nat.shiftRight_eq_div_pow]
  have := x.isLt
  omega

/-- R204, R205: whatever the bytes, the decoder fills the DEC registers legally. -/
theorem decSub_legal (b : List Byte) : (decSub b).Legal where
  len := by
    have h6 := decLen_le b
    change (BitVec.ofNat 8 (decLen b)).toNat ≤ 6
    rw [BitVec.toNat_ofNat]
    omega
  ext := rfl
  chars c hc := by
    obtain ⟨i, -, rfl⟩ := Vector.mem_ofFn.mp (Vector.mem_toList_iff.mp hc)
    rw [List.getD_eq_getElem?_getD]
    cases hi : (decChars b)[i.val]? with
    | none => decide
    | some x => exact decChars_lt (List.mem_of_getElem? hi)

/-! ### The states a command may run from -/

/-- What a command relies on and keeps: canonical memory, legal received registers, RST low. -/
structure State.Ready (s : State) : Prop where
  memory : s.mem.wf
  received : s.regs.ReceivedLegal
  outOfReset : s.rst = false

theorem Inv.ready {s : State} (h : Inv s) (hrst : s.rst = false) : s.Ready :=
  ⟨h.memory, ⟨h.receive, h.decDest, h.decSrc⟩, hrst⟩

theorem State.Ready.inv {s : State} (h : s.Ready) (hres : s.regs.result ∈ legalResults)
    (hcmd : ∀ i, s.inFlight = some i → i.isCommand = true) : Inv s where
  memory := h.memory
  result := hres
  receive := h.received.receive
  decDest := h.received.decDest
  decSrc := h.received.decSrc
  held hr := by rw [h.outOfReset] at hr; cases hr
  command := hcmd

/-- An update that leaves memory canonical and the received registers and RST as they were. -/
theorem State.Ready.update {s t : State} (h : s.Ready) (hm : t.mem.wf) (hr : t.regs.received = s.regs.received)
    (hrst : t.rst = s.rst) : t.Ready :=
  ⟨hm, h.received.of_received_eq hr, hrst.trans h.outOfReset⟩

/-- An update of registers other than the received ones. -/
theorem State.Ready.withRegs {s : State} (h : s.Ready) {r : Regs} (hr : r.received = s.regs.received) :
    State.Ready { s with regs := r } :=
  h.update (t := { s with regs := r }) h.memory hr rfl

theorem State.Ready.start {s : State} (h : s.Ready) (i : Instr) : (s.start i).Ready :=
  ⟨h.memory, h.received, h.outOfReset⟩

theorem Completion.byte_legal (c : Completion) : c.byte ∈ legalResults := by
  cases c <;> decide

/-- R312: completion turns a ready state into one of the whole invariant. -/
theorem State.Ready.completed_inv {s : State} (h : s.Ready) (c : Completion) : Inv (s.completed c) :=
  (h.update (t := s.completed c) h.memory rfl rfl).inv c.byte_legal (by simp)

/-- If the outcome is a next state, that state meets the invariant. -/
def EndsInInv (o : Outcome) : Prop := ∀ t, o = .next t → Inv t

theorem endsInInv_next {t : State} (h : Inv t) : EndsInInv (.next t) := by
  rintro _ ⟨⟩; exact h

theorem endsInInv_fault (f : Fault) : EndsInInv (.fault f) := by
  rintro _ ⟨⟩

theorem endsInInv_ite {p : Prop} [Decidable p] {o o' : Outcome} (h : p → EndsInInv o) (h' : ¬ p → EndsInInv o') :
    EndsInInv (if p then o else o') := by
  split
  · exact h ‹_›
  · exact h' ‹_›

theorem State.Ready.endsInInv {s : State} (h : s.Ready) {c : Completion} : EndsInInv (.next (s.completed c)) :=
  endsInInv_next (h.completed_inv c)

/-! ### What the commands store fits its buffer -/

/-- R152 (4) from any point of a run: each one-bit, the `run` already sent among them, pays a fifth of a stuffed bit. -/
theorem stuffFrom_length_le (run : Nat) (q : List Bool) : 5 * (stuffFrom run q).length ≤ 6 * q.length + run := by
  induction q generalizing run with
  | nil => simp
  | cons b q ih =>
    have h0 := ih 0
    cases b with
    | false => rw [stuffFrom_zero, List.length_cons, List.length_cons]; omega
    | true =>
      have h1 := ih (run + 1)
      rw [stuffFrom_one]
      split <;> simp only [List.length_cons] <;> omega

/-- R152 (4). -/
theorem stuff_length_le (q : List Bool) : (stuff q).length ≤ q.length + q.length / 5 := by
  have h : 5 * (stuff q).length ≤ 6 * q.length + 0 := stuffFrom_length_le 0 q
  omega

/-- At most LOG_CAP bytes stuff into 329 (R17: RAW_CAP less the two flags). -/
theorem pack_stuff_length_le {bytes : List Byte} (h : bytes.length ≤ 274) : (pack (stuff (bits bytes))).length ≤ 329 := by
  have hs := stuff_length_le (bits bytes)
  rw [bits_length] at hs
  rw [pack_length, byteCount]
  omega

theorem rawFrame_length_le {frame : List Byte} (h : frame.length ≤ 274) : (rawFrame frame).length ≤ 331 := by
  have hp : (pack (stuffedBits frame)).length ≤ 329 := pack_stuff_length_le h
  rw [rawFrame, List.length_cons, List.length_append, List.length_singleton]
  omega

theorem controlField_length_le (ft : FrameType) (pf : Bool) (vs vr : BitVec 7) :
    (controlField ft pf vs vr).length ≤ 2 := by
  cases ft <;> simp [controlField]

theorem pidInfo_length_le (ft : FrameType) {payload : List Byte} (h : payload.length ≤ 255) :
    (pidInfo ft payload).length ≤ 256 := by
  unfold pidInfo
  split
  · simp only [List.length_cons, List.length_append, zeros, List.length_replicate, Config.INFO_CAP]; omega
  · simp

/-- R14: no logical frame is longer than an I frame. -/
theorem withFcs_frameBody_length_le (ft : FrameType) {payload : List Byte} (r : Regs) (h : payload.length ≤ 255) :
    (withFcs (frameBody ft payload r)).length ≤ 274 := by
  have hc := controlField_length_le ft (pfField r.txctl) r.vs r.vr
  have hp := pidInfo_length_le ft h
  have ha : (encAddr r.txDest r.txSrc).length = 14 := rfl
  simp only [withFcs, frameBody, fcsField, List.length_append, List.length_cons, List.length_nil, ha]
  omega

theorem State.Ready.stuffed {s : State} (h : s.Ready) {bytes : List Byte} (hl : bytes.length ≤ 274) :
    (s.stuffed bytes).Ready := by
  have hp := pack_stuff_length_le hl
  have hw := State.bufWrite_wf h.memory .raw 0 (pack (stuff (bits bytes))) (by simp only [Buf.cap, Config.RAW_CAP]; omega)
  exact h.update hw rfl rfl

theorem State.Ready.logDestuffed {s : State} (h : s.Ready) (d : List Bool) : (s.logDestuffed d).Ready := by
  refine h.update ?_ (s.logDestuffed_received d) (s.logDestuffed_rst d)
  have hcap : Buf.log.cap = Config.LOG_CAP := rfl
  have hd : 8 * wholeBytes d ≤ d.length := by unfold wholeBytes; omega
  by_cases hov : Config.LOG_CAP < wholeBytes d
  · rw [s.logDestuffed_overflow hov]
    have hlen : (bytesOf Config.LOG_CAP d).length = Config.LOG_CAP := bytesOf_length (by omega)
    exact State.bufWrite_wf h.memory .log 0 _ (by omega)
  · rw [s.logDestuffed_fits (by omega)]
    exact State.bufWrite_wf h.memory .log 0 _ (by rw [bytesOf_length hd]; omega)

theorem State.Ready.assembled {s : State} (h : s.Ready) (ft : FrameType) {payload : List Byte}
    (hl : payload.length ≤ 255) : (s.assembled ft payload).Ready := by
  have hf := withFcs_frameBody_length_le ft s.regs hl
  have hr := rawFrame_length_le hf
  have hlog := State.bufWrite_wf h.memory .log 0 (withFcs (frameBody ft payload s.regs)) (by
    simp only [Buf.cap, Config.LOG_CAP, Config.I_LEN, Config.ALEN, Config.CLEN, Config.INFO_CAP]; omega)
  have hraw := State.bufWrite_wf hlog .raw 0 (rawFrame (withFcs (frameBody ft payload s.regs))) (by
    simp only [Buf.cap, Config.RAW_CAP]; omega)
  exact h.update hraw rfl rfl

/-! ### The commands but PARSE -/

theorem execStuff_endsInInv {s : State} (h : s.Ready) : EndsInInv (execStuff s) := by
  rcases execStuff_cases s with ⟨-, he⟩ | ⟨hle, bytes, hl, -, he⟩ | ⟨-, k, -, he⟩ <;> rw [he]
  · exact h.endsInInv
  · exact (h.stuffed (by omega)).endsInInv
  · exact endsInInv_fault _

theorem execDestuff_endsInInv {s : State} (h : s.Ready) : EndsInInv (execDestuff s) := by
  rcases execDestuff_cases s with ⟨-, he⟩ | ⟨-, bytes, d, -, -, -, he⟩ | ⟨-, k, -, he⟩ <;> rw [he]
  · exact h.endsInInv
  · exact (h.logDestuffed d).endsInInv
  · exact endsInInv_fault _

theorem execFcsgen_endsInInv {s : State} (h : s.Ready) : EndsInInv (execFcsgen s) := by
  rcases execFcsgen_cases s with ⟨-, he⟩ | ⟨-, bytes, -, -, he⟩ | ⟨-, k, -, he⟩ <;> rw [he]
  · exact h.endsInInv
  · refine State.Ready.endsInInv ?_
    exact h.withRegs rfl
  · exact endsInInv_fault _

theorem execFcschk_endsInInv {s : State} (h : s.Ready) : EndsInInv (execFcschk s) := by
  rcases execFcschk_cases s with ⟨-, he⟩ | ⟨-, bytes, -, -, he⟩ | ⟨-, k, -, he⟩ <;> rw [he]
  · exact h.endsInInv
  · refine State.Ready.endsInInv ?_
    exact h.withRegs rfl
  · exact endsInInv_fault _

theorem execAenc_endsInInv {s : State} (h : s.Ready) : EndsInInv (execAenc s) := by
  rcases execAenc_cases s with ⟨-, he⟩ | ⟨-, -, he⟩ <;> rw [he]
  · exact h.endsInInv
  · refine State.Ready.endsInInv ?_
    exact h.withRegs rfl

theorem State.Ready.writeDec {s : State} (h : s.Ready) (a : List Byte) : (s.writeDec a).Ready where
  memory := h.memory
  received :=
    ⟨⟨h.received.receive.kind, h.received.receive.info, h.received.receive.sup⟩, decSub_legal _, decSub_legal _⟩
  outOfReset := h.outOfReset

theorem execAdec_endsInInv {s : State} (h : s.Ready) : EndsInInv (execAdec s) := by
  rcases execAdec_cases s with ⟨-, he⟩ | ⟨-, he⟩ | ⟨-, -, ⟨bytes, -, -, he⟩ | ⟨k, -, he⟩⟩ <;> rw [he]
  · exact h.endsInInv
  · exact h.endsInInv
  · exact (h.writeDec bytes).endsInInv
  · exact endsInInv_fault _

theorem execAsm_endsInInv {s : State} (h : s.Ready) : EndsInInv (execAsm s) := by
  rcases execAsm_cases s with ⟨-, he⟩ | ⟨ft, c, -, -, he⟩ | ⟨ft, -, hc, ⟨payload, hl, -, he⟩ | ⟨k, -, he⟩⟩ <;> rw [he]
  · exact h.endsInInv
  · exact h.endsInInv
  · obtain ⟨-, -, -, -, hle⟩ := asmCheck_none.mp hc
    exact (h.assembled ft (by omega)).endsInInv
  · exact endsInInv_fault _

theorem State.Ready.softReset {s : State} (h : s.Ready) : s.softReset.Ready :=
  ⟨h.memory, Regs.reset_receivedLegal, h.outOfReset⟩

/-! ### PARSE

RX_KIND is cleared first and stays 0 until the frame is accepted, so the RX registers may hold any control bytes until
then. -/

/-- A ready state with RX_KIND cleared. -/
structure State.Parsing (s : State) : Prop where
  ready : s.Ready
  noKind : s.regs.rxKind = 0

theorem State.Ready.rxCleared {s : State} (h : s.Ready) : s.rxCleared.Parsing :=
  ⟨⟨h.memory, Regs.receivedLegal_of_kind_zero rfl h.received.decDest h.received.decSrc, h.outOfReset⟩, rfl⟩

theorem State.Parsing.update {s t : State} (h : s.Parsing) (hm : t.mem.wf) (hr : t.regs.received = s.regs.received)
    (hrst : t.rst = s.rst) : t.Parsing :=
  ⟨h.ready.update hm hr hrst, (Regs.rxKind_eq_of_received_eq hr).trans h.noKind⟩

/-- Control extraction (R256) leaves RX_KIND and the DEC registers. -/
theorem State.Parsing.ready_of_dec {s t : State} (h : s.Parsing) (hm : t.mem = s.mem) (hrst : t.rst = s.rst)
    (hk : t.regs.rxKind = s.regs.rxKind) (hd : t.regs.decDest = s.regs.decDest) (hs : t.regs.decSrc = s.regs.decSrc) :
    t.Ready where
  memory := hm ▸ h.ready.memory
  received := Regs.receivedLegal_of_kind_zero (hk.trans h.noKind) (hd ▸ h.ready.received.decDest)
    (hs ▸ h.ready.received.decSrc)
  outOfReset := hrst.trans h.ready.outOfReset

theorem State.Parsing.rxInfo {s : State} (h : s.Parsing) (frame : List Byte) : (s.rxInfo frame).Ready :=
  h.ready_of_dec rfl rfl rfl rfl rfl

theorem State.Parsing.rxSup {s : State} (h : s.Parsing) (frame : List Byte) : (s.rxSup frame).Ready :=
  h.ready_of_dec rfl rfl rfl rfl rfl

/-- R260: an accepted I frame's RX registers are the fields of its control bytes. -/
theorem State.Parsing.deliver {s : State} (h : s.Parsing) {frame : List Byte} (hi : (ctrl0 frame).getLsbD 0 = false)
    (hpid : pidOf frame = 0xF0) : ((s.rxInfo frame).deliver frame).Ready where
  memory := State.bufWrite_wf (s := s.rxInfo frame) h.ready.memory .info 0 _ (by
    simp only [List.length_take, Buf.cap]; omega)
  received :=
    { receive := ⟨by simp, fun _ => ⟨hi, rfl, rfl, rfl, rfl, hpid⟩, by simp⟩
      decDest := h.ready.received.decDest
      decSrc := h.ready.received.decSrc }
  outOfReset := h.ready.outOfReset

theorem legalSupervisory_iff {c : Byte} : legalSupervisory c = true ↔ c ∈ [(0x01 : Byte), 0x05, 0x09, 0x0D] := by
  simp [legalSupervisory, or_assoc]

/-- R261: an accepted S frame's RX registers are the fields of its control bytes. -/
theorem State.Parsing.acceptSup {s : State} (h : s.Parsing) {frame : List Byte}
    (hc : legalSupervisory (ctrl0 frame) = true) :
    State.Ready { s.rxSup frame with regs := { (s.rxSup frame).regs with rxKind := 2 } } where
  memory := h.ready.memory
  received :=
    { receive := ⟨by simp, by simp, fun _ => ⟨legalSupervisory_iff.mp hc, rfl, rfl, rfl, rfl, rfl⟩⟩
      decDest := h.ready.received.decDest
      decSrc := h.ready.received.decSrc }
  outOfReset := h.ready.outOfReset

theorem parseControl_endsInInv (frame : List Byte) {s : State} (h : s.Parsing) : EndsInInv (parseControl frame s) := by
  rcases parseControl_cases frame s with ⟨-, he⟩ | ⟨-, he⟩ <;> rw [he]
  · rcases parseInfo_cases frame (s.rxInfo frame) with ⟨-, he⟩ | ⟨-, -, he⟩ | ⟨-, -, -, he⟩ | ⟨hi, -, hpid, he⟩ <;> rw [he]
    · exact (h.rxInfo frame).endsInInv
    · exact (h.rxInfo frame).endsInInv
    · exact (h.rxInfo frame).endsInInv
    · exact (h.deliver hi hpid).endsInInv
  · rcases parseSup_cases frame (s.rxSup frame) with ⟨hc, he⟩ | ⟨-, he⟩ <;> rw [he]
    · exact (h.acceptSup hc).endsInInv
    · exact (h.rxSup frame).endsInInv

theorem parseAddress_endsInInv (frame : List Byte) {s : State} (h : s.Parsing) : EndsInInv (parseAddress frame s) := by
  have hdec : (s.writeDec (frame.take 14)).Parsing := ⟨h.ready.writeDec _, h.noKind⟩
  rcases parseAddress_cases frame s with ⟨-, he⟩ | ⟨-, he⟩ <;> rw [he]
  · exact parseControl_endsInInv frame hdec
  · exact hdec.ready.endsInInv

theorem parseFcs_endsInInv (frame : List Byte) {s : State} (h : s.Parsing) : EndsInInv (parseFcs frame s) := by
  obtain ⟨t, rfl, ⟨-, he⟩ | ⟨-, he⟩⟩ := parseFcs_cases frame s <;> rw [he]
  · exact parseAddress_endsInInv frame (h.update h.ready.memory rfl rfl)
  · refine State.Ready.endsInInv ?_
    exact h.ready.withRegs rfl

theorem parseBody_endsInInv (interior : List Byte) {s : State} (h : s.Parsing) :
    EndsInInv (parseBody interior s) := by
  obtain ⟨d, -, ⟨-, he⟩ | ⟨-, -, -, he⟩ | ⟨-, he⟩⟩ := parseBody_cases interior s <;> rw [he]
  · exact (h.ready.logDestuffed d).endsInInv
  · exact (h.ready.logDestuffed d).endsInInv
  · exact parseFcs_endsInInv _
      (h.update (h.ready.logDestuffed d).memory (s.logDestuffed_received d) (s.logDestuffed_rst d))

theorem parseFlags_endsInInv (n : Nat) {s : State} (h : s.Parsing) : EndsInInv (parseFlags n s) := by
  rcases parseFlags_cases n s with ⟨-, he⟩ | ⟨b, -, -, he⟩ |
    ⟨-, ⟨-, he⟩ | ⟨b, -, -, he⟩ | ⟨-, ⟨interior, -, -, he⟩ | ⟨k, -, he⟩⟩⟩ <;> rw [he]
  · exact endsInInv_fault _
  · exact h.ready.endsInInv
  · exact endsInInv_fault _
  · exact h.ready.endsInInv
  · exact parseBody_endsInInv interior h
  · exact endsInInv_fault _

theorem execParse_endsInInv {s : State} (h : s.Ready) : EndsInInv (execParse s) := by
  have hp := h.rxCleared
  rcases execParse_cases s with ⟨-, he⟩ | ⟨-, -, he⟩ | ⟨-, -, he⟩ | ⟨-, -, -, he⟩ <;> rw [he]
  · exact hp.ready.endsInInv
  · exact hp.ready.endsInInv
  · exact hp.ready.endsInInv
  · exact parseFlags_endsInInv _ hp

/-! ### Every command, every input -/

theorem exec_endsInInv (i : Instr) {s : State} (h : s.Ready) : EndsInInv (exec i s) := by
  cases i with
  | nop => exact h.endsInInv
  | stuff => exact execStuff_endsInInv h
  | destuff => exact execDestuff_endsInInv h
  | fcsgen => exact execFcsgen_endsInInv h
  | fcschk => exact execFcschk_endsInInv h
  | aenc => exact execAenc_endsInInv h
  | adec => exact execAdec_endsInInv h
  | asm => exact execAsm_endsInInv h
  | parse => exact execParse_endsInInv h
  | incvs =>
    refine State.Ready.endsInInv ?_
    exact h.withRegs rfl
  | incvr =>
    refine State.Ready.endsInInv ?_
    exact h.withRegs rfl
  | srst => exact h.softReset.endsInInv
  | reserved0b | reserved0c | reserved0d | reserved0e => exact h.endsInInv
  | illegal80 | illegal40 | illegal20 | illegal10 => exact h.endsInInv

theorem runCommand_endsInInv (v : Byte) {s : State} (h : s.Ready) : EndsInInv (runCommand v s) :=
  exec_endsInInv _ (h.start _)

/-- The inputs still to come and the byte last read are no part of the invariant. -/
theorem Inv.congr {s t : State} (h : Inv s) (hr : t.regs = s.regs) (hm : t.mem = s.mem)
    (hf : t.inFlight = s.inFlight) (hrst : t.rst = s.rst) : Inv t where
  memory := hm ▸ h.memory
  result := hr ▸ h.result
  receive := hr ▸ h.receive
  decDest := hr ▸ h.decDest
  decSrc := hr ▸ h.decSrc
  held hh := by rw [hr, hm, hf]; exact h.held (hrst ▸ hh)
  command := hf ▸ h.command

/-- R341-R343: the block's own part of a hard reset, at either level of RST. -/
theorem inv_of_reset {t : State} (hr : t.regs = Regs.reset) (hm : t.mem = []) (hf : t.inFlight = none) : Inv t where
  memory := hm ▸ Memory.wf_nil
  result := by rw [hr]; decide
  receive := hr ▸ Regs.reset_receivedLegal.receive
  decDest := hr ▸ Regs.reset_receivedLegal.decDest
  decSrc := hr ▸ Regs.reset_receivedLegal.decSrc
  held _ := ⟨hr, hm, hf⟩
  command i hi := by rw [hf] at hi; cases hi

theorem Inv.setRst {s : State} (h : Inv s) (level : Bool) : Inv (s.setRst level) := by
  cases level with
  | true => exact inv_of_reset rfl rfl rfl
  | false => exact State.Ready.inv ⟨h.memory, ⟨h.receive, h.decDest, h.decSrc⟩, rfl⟩ h.result h.command

theorem hardReset_inv (s : State) : Inv s.hardReset := inv_of_reset rfl rfl rfl

theorem hostRead_endsInInv (a : Addr) {s : State} (h : Inv s) : EndsInInv (hostRead a s) := by
  unfold hostRead
  cases memRead s a with
  | error e => exact endsInInv_fault e
  | ok v => exact endsInInv_next (h.congr rfl rfl rfl rfl)

theorem memWrite_inv {s : State} (h : Inv s) (hrst : s.rst = false) (a : Addr) (v : Byte) : Inv (memWrite a v s) := by
  have hwf := memWrite_wf h.memory a v
  rcases memWrite_cases a v s with ⟨row, k, -, he⟩ | ⟨b, i, -, he⟩ | he <;> rw [he] at hwf ⊢
  · exact ((h.ready hrst).update hwf (writeReg_received ..) rfl).inv (by simpa using h.result) h.command
  · exact ((h.ready hrst).update hwf rfl rfl).inv h.result h.command
  · exact h

theorem Inv.overrun {s : State} (h : Inv s) (hrst : s.rst = false) : Inv s.overrun :=
  State.Ready.inv ((h.ready hrst).withRegs rfl) h.result h.command

theorem Inv.start {s : State} (h : Inv s) (hrst : s.rst = false) {i : Instr} (hi : i.isCommand = true) :
    Inv (s.start i) :=
  ((h.ready hrst).start i).inv h.result fun j hj => by
    rw [State.start_inFlight, Option.some.injEq] at hj
    exact hj ▸ hi

theorem heldInput_endsInInv (x : Input) {s : State} (h : Inv s) : EndsInInv (heldInput x s) := by
  cases x with
  | read a => exact endsInInv_next (h.congr rfl rfl rfl rfl)
  | write a v => exact endsInInv_next h
  | issue v => exact endsInInv_next h
  | complete => exact endsInInv_next h
  | rst level => exact endsInInv_next (h.setRst level)
  | powerOn => exact endsInInv_next (hardReset_inv s)

theorem idleInput_endsInInv (x : Input) {s : State} (h : Inv s) (hrst : s.rst = false) :
    EndsInInv (idleInput x s) := by
  have hready := h.ready hrst
  cases x with
  | read a => exact hostRead_endsInInv a h
  | write a v =>
    exact endsInInv_ite (fun _ => runCommand_endsInInv v hready) fun _ => endsInInv_next (memWrite_inv h hrst a v)
  | issue v =>
    exact endsInInv_ite (fun hc => endsInInv_next (h.start hrst hc)) fun _ => runCommand_endsInInv v hready
  | complete => exact endsInInv_next h
  | rst level => exact endsInInv_next (h.setRst level)
  | powerOn => exact endsInInv_next (hardReset_inv s)

theorem busyInput_endsInInv (i : Instr) (x : Input) {s : State} (h : Inv s) (hrst : s.rst = false) :
    EndsInInv (busyInput i x s) := by
  cases x with
  | read a => exact endsInInv_ite (fun _ => hostRead_endsInInv a h) fun _ => endsInInv_fault _
  | write a v => exact endsInInv_ite (fun _ => endsInInv_next (h.overrun hrst)) fun _ => endsInInv_fault _
  | issue v => exact endsInInv_next (h.overrun hrst)
  | complete => exact exec_endsInInv i (h.ready hrst)
  | rst level => exact endsInInv_next (h.setRst level)
  | powerOn => exact endsInInv_next (hardReset_inv s)

theorem Inv.take {s : State} (h : Inv s) (rest : List Input) : Inv (s.take rest) := h.congr rfl rfl rfl rfl

theorem step_endsInInv {s : State} (h : Inv s) : EndsInInv (step s) := by
  rcases step_cases s with ⟨-, ⟨-, he⟩ | ⟨x, rest, -, he⟩⟩ | ⟨hrst, -, ⟨-, he⟩ | ⟨x, rest, -, he⟩⟩ |
    ⟨i, hrst, -, ⟨-, he⟩ | ⟨x, rest, -, he⟩⟩ <;> rw [he]
  · exact endsInInv_next h
  · exact heldInput_endsInInv x (h.take rest)
  · exact endsInInv_next h
  · exact idleInput_endsInInv x (h.take rest) hrst
  · exact exec_endsInInv i (h.ready hrst)
  · exact busyInput_endsInInv i x (h.take rest) hrst

/-- Settles O57: every outcome of a step is covered by `step_cases`, and each keeps the invariant. -/
theorem stepKeepsInvariant : Obligations.StepKeepsInvariant := by
  intro s t hs ht
  exact step_endsInInv hs t ht

end Sys2Proof.Machine

/-! # The register map and the host port (O15, O8, O10, O13, O59)

What stands at an address (`locate`), then what the host's read and write of it do. -/
namespace Sys2Proof.Machine

/-! ### What stands at an address (R31, R81) -/

theorem RegRow.covers_iff {r : RegRow} {n : Nat} : r.covers n = true ↔ r.base ≤ n ∧ n < r.base + r.size := by
  simp [RegRow.covers]

theorem Buf.holds_iff {b : Buf} {n : Nat} : b.holds n = true ↔ b.base ≤ n ∧ n < b.base + b.cap := by
  simp [Buf.holds]

theorem Buf.mem_all (b : Buf) : b ∈ Buf.all := by cases b <;> decide

/-- R31: no two rows of the register map share an address. -/
theorem regMap_disjoint : ∀ r ∈ regMap, ∀ r' ∈ regMap,
    r = r' ∨ r.base + r.size ≤ r'.base ∨ r'.base + r'.size ≤ r.base := by
  decide

theorem eq_of_covers {r r' : RegRow} {n : Nat} (hr : r ∈ regMap) (hr' : r' ∈ regMap) (h : r.covers n = true)
    (h' : r'.covers n = true) : r = r' := by
  rw [RegRow.covers_iff] at h h'
  exact (regMap_disjoint r hr r' hr').resolve_right (by omega)

/-- R81: no two buffers share an address. -/
theorem Buf.disjoint (b b' : Buf) : b = b' ∨ b.base + b.cap ≤ b'.base ∨ b'.base + b'.cap ≤ b.base := by
  cases b <;> cases b' <;> decide

theorem eq_of_holds {b b' : Buf} {n : Nat} (h : b.holds n = true) (h' : b'.holds n = true) : b = b' := by
  rw [Buf.holds_iff] at h h'
  exact (Buf.disjoint b b').resolve_right (by omega)

/-- R31, R81: the registers stand below the buffers. -/
theorem regMap_below_buffers : ∀ r ∈ regMap, r.base + r.size ≤ 0x100 := by decide

theorem not_covers_of_holds {r : RegRow} {b : Buf} {n : Nat} (hr : r ∈ regMap) (h : b.holds n = true) :
    r.covers n ≠ true := by
  have hbuf : 0x100 ≤ b.base := by cases b <;> decide
  have hend := regMap_below_buffers r hr
  rw [Buf.holds_iff] at h
  rw [Ne, RegRow.covers_iff]
  omega

/-- R81: the addresses of the three buffers. -/
theorem exists_holds_iff {n : Nat} : (∃ b : Buf, b.holds n = true) ↔
    (0x100 ≤ n ∧ n ≤ 0x1FE) ∨ (0x200 ≤ n ∧ n ≤ 0x34A) ∨ (0x400 ≤ n ∧ n ≤ 0x511) := by
  simp only [Buf.holds_iff]
  constructor
  · rintro ⟨b, h⟩
    cases b with
    | info => exact .inl ⟨h.1, Nat.le_of_lt_succ h.2⟩
    | raw => exact .inr (.inl ⟨h.1, Nat.le_of_lt_succ h.2⟩)
    | log => exact .inr (.inr ⟨h.1, Nat.le_of_lt_succ h.2⟩)
  · rintro (h | h | h)
    · exact ⟨.info, h.1, Nat.lt_succ_of_le h.2⟩
    · exact ⟨.raw, h.1, Nat.lt_succ_of_le h.2⟩
    · exact ⟨.log, h.1, Nat.lt_succ_of_le h.2⟩

/-- Everything that can stand at an address. -/
theorem locate_cases (a : Addr) :
    (∃ row ∈ regMap, row.covers a.toNat = true ∧ locate a = .reg row (a.toNat - row.base)) ∨
    (∃ b : Buf, b.holds a.toNat = true ∧ locate a = .buf b (a.toNat - b.base)) ∨
    ((∀ row ∈ regMap, row.covers a.toNat ≠ true) ∧ (∀ b : Buf, b.holds a.toNat ≠ true) ∧ locate a = .reserved) := by
  unfold locate
  cases hreg : regMap.find? fun r => r.covers a.toNat with
  | some row => exact .inl ⟨row, List.mem_of_find?_eq_some hreg, by simpa using List.find?_some hreg, rfl⟩
  | none =>
    cases hbuf : Buf.all.find? fun b => b.holds a.toNat with
    | some b => exact .inr (.inl ⟨b, by simpa using List.find?_some hbuf, rfl⟩)
    | none =>
      exact .inr (.inr ⟨List.find?_eq_none.mp hreg, fun b => List.find?_eq_none.mp hbuf b b.mem_all, rfl⟩)

theorem locate_of_covers {row : RegRow} {a : Addr} (hr : row ∈ regMap) (hc : row.covers a.toNat = true) :
    locate a = .reg row (a.toNat - row.base) := by
  rcases locate_cases a with ⟨r, hr', hc', he⟩ | ⟨b, hb, -⟩ | ⟨hno, -, -⟩
  · rwa [eq_of_covers hr hr' hc hc']
  · exact absurd hc (not_covers_of_holds hr hb)
  · exact absurd hc (hno row hr)

theorem locate_of_holds {b : Buf} {a : Addr} (hb : b.holds a.toNat = true) :
    locate a = .buf b (a.toNat - b.base) := by
  rcases locate_cases a with ⟨r, hr, hc, -⟩ | ⟨b', hb', he⟩ | ⟨-, hno, -⟩
  · exact absurd hc (not_covers_of_holds hr hb)
  · rwa [eq_of_holds hb hb']
  · exact absurd hb (hno b)

/-! ### What a read and a write do there (R80-R84) -/

theorem memRead_of_covers {row : RegRow} {a : Addr} (s : State) (hr : row ∈ regMap) (hc : row.covers a.toNat = true) :
    memRead s a = .ok (regByte s (a.toNat - row.base) row.name) := by
  unfold memRead
  rw [locate_of_covers hr hc]

theorem memRead_of_holds {b : Buf} {a : Addr} (s : State) (hb : b.holds a.toNat = true) :
    memRead s a = s.bufRead b (a.toNat - b.base) := by
  unfold memRead
  rw [locate_of_holds hb]

theorem memRead_of_reserved {a : Addr} (s : State) (h : locate a = .reserved) : memRead s a = .ok 0x00 := by
  unfold memRead
  rw [h]

theorem memWrite_of_covers_rw {row : RegRow} {a : Addr} (v : Byte) (s : State) (hr : row ∈ regMap)
    (hc : row.covers a.toNat = true) (hacc : row.access = .rw) :
    memWrite a v s = { s with regs := writeReg (a.toNat - row.base) v s.regs row.name } := by
  unfold memWrite
  rw [locate_of_covers hr hc]
  simp only [hacc]

theorem memWrite_of_holds {b : Buf} {a : Addr} (v : Byte) (s : State) (hb : b.holds a.toNat = true) :
    memWrite a v s = s.bufWrite b (a.toNat - b.base) [v] := by
  unfold memWrite
  rw [locate_of_holds hb]

/-! ### Reading back a register write -/

/-- How many bytes of a register the host can write in full (R32, R41): none of TXCTL, IRQ_EN and STATUS. -/
def Reg.fullBytes : Reg → Nat
  | .infoLen | .logLen | .rawLen | .rawBits | .fcs => 2
  | .txAlen | .txDestLen | .txDestSsid | .txSrcLen | .txSrcSsid | .localLen | .localSsid => 1
  | .txDestCall | .txSrcCall | .localCall => 6
  | _ => 0

/-- R85: a byte of a 16-bit register reads back. -/
theorem byteOf_setByteOf (w : Half) (k : Nat) (v : Byte) : byteOf (setByteOf w k v) k = v := by
  unfold byteOf setByteOf
  by_cases hk : k = 0
  · rw [if_pos hk, if_pos hk, lo8, ofBytes, BitVec.extractLsb'_append_eq_right]
  · rw [if_neg hk, if_neg hk, hi8, ofBytes, BitVec.extractLsb'_append_eq_left]

/-- R43: a character of a call-sign reads back. -/
theorem setChar_getD (t : Station) {k : Nat} (hk : k < 6) (v : Byte) : (t.setChar k v).call[k]?.getD 0 = v := by
  simp [Station.setChar, hk]

theorem regByte_writeReg_self (s : State) {g : Reg} {k : Nat} (hk : k < g.fullBytes) (v : Byte) :
    regByte { s with regs := writeReg k v s.regs g } k g = v := by
  cases g with
  | infoLen | logLen | rawLen | rawBits | fcs => exact byteOf_setByteOf _ k v
  | txAlen | txDestLen | txDestSsid | txSrcLen | txSrcSsid | localLen | localSsid => rfl
  | txDestCall | txSrcCall | localCall => exact setChar_getD _ hk v
  | _ => exact absurd hk (Nat.not_lt_zero k)

/-- R31: the addresses whose byte the host can write in full. -/
theorem fullBytes_addresses : ∀ n < 0x40,
    (0x010 ≤ n ∧ n ≤ 0x017) ∨ n = 0x01A ∨ n = 0x01B ∨ (0x021 ≤ n ∧ n ≤ 0x039) →
    ∃ row ∈ regMap, row.covers n = true ∧ row.access = .rw ∧ n - row.base < row.name.fullBytes := by
  decide

theorem memRead_memWrite_full {row : RegRow} {a : Addr} (v : Byte) (s : State) (hr : row ∈ regMap)
    (hc : row.covers a.toNat = true) (hacc : row.access = .rw) (hk : a.toNat - row.base < row.name.fullBytes) :
    memRead (memWrite a v s) a = .ok v := by
  rw [memWrite_of_covers_rw v s hr hc hacc, memRead_of_covers _ hr hc, regByte_writeReg_self s hk]

theorem memRead_memWrite_buf {b : Buf} {a : Addr} (v : Byte) (s : State) (hb : b.holds a.toNat = true) :
    memRead (memWrite a v s) a = .ok v := by
  rw [memWrite_of_holds v s hb, memRead_of_holds _ hb, State.bufRead_ok, State.bufWrite_mem]
  exact Memory.read_write_inside s.mem _ [v] 0 (by simp)

/-- R41: TXCTL keeps bits 5:0 of what is written. -/
theorem setWidth_setWidth_eq_and (v : Byte) : (v.setWidth 6).setWidth 8 = v &&& 0x3F := by
  apply BitVec.eq_of_toNat_eq
  simp only [BitVec.toNat_setWidth, BitVec.toNat_and]
  exact (Nat.mod_eq_of_lt (by omega)).trans (Nat.and_two_pow_sub_one_eq_mod v.toNat 6).symm

theorem bitByte_eq (b : Bool) : bitByte b = if b then 1 else 0 := by cases b <;> rfl

@[simp] theorem bitByte_getLsbD (b : Bool) (k : Nat) : (bitByte b).getLsbD k = (decide (k = 0) && b) := by
  rw [bitByte, BitVec.getLsbD_setWidth, BitVec.getLsbD_ofBool]
  by_cases hk : k = 0 <;> simp [hk]

/-- R35: IRQ_EN keeps bit 0 of what is written. -/
theorem bitByte_bit_zero_eq_and (v : Byte) : bitByte (v.getLsbD 0) = v &&& 0x01 := by
  apply BitVec.eq_of_getLsbD_eq
  intro i hi
  rw [bitByte_getLsbD, BitVec.getLsbD_and, show (0x01 : Byte) = 1#8 from rfl, BitVec.getLsbD_one]
  by_cases h0 : i = 0 <;> simp [h0]

/-- Settles O15: an RW register byte by its row of the register map, a buffer byte by the store, and TXCTL, IRQ_EN and
STATUS by the bits they keep. -/
theorem writableBytesReadBack : Obligations.WritableBytesReadBack := by
  intro s a v
  refine ⟨fun ha => ?_, ?_, ?_, rfl⟩
  · by_cases hreg : a.toNat < 0x100
    · obtain ⟨row, hr, hc, hacc, hk⟩ := fullBytes_addresses a.toNat (by omega) (by omega)
      exact memRead_memWrite_full v s hr hc hacc hk
    · obtain ⟨b, hb⟩ := (exists_holds_iff (n := a.toNat)).mpr (by omega)
      exact memRead_memWrite_buf v s hb
  · exact congrArg Except.ok (setWidth_setWidth_eq_and v)
  · exact congrArg Except.ok (bitByte_bit_zero_eq_and v)

/-! ### One step with an input pending -/

theorem step_of_idle {s : State} {x : Input} {rest : List Input} (hrst : s.rst = false) (hf : s.inFlight = none)
    (hin : s.inputs = x :: rest) : step s = idleInput x (s.take rest) := by
  unfold step hostStep
  rw [hin]
  simp [onInput, hrst, hf]

theorem step_of_busy {s : State} {i : Instr} {x : Input} {rest : List Input} (hrst : s.rst = false)
    (hf : s.inFlight = some i) (hin : s.inputs = x :: rest) : step s = busyInput i x (s.take rest) := by
  unfold step hostStep
  rw [hin]
  simp [onInput, hrst, hf]

/-! ### STATUS (R33) -/

theorem statusByte_getLsbD (s : State) (k : Nat) : (statusByte s).getLsbD k =
    (decide (k = 0) && s.inFlight.isSome || decide (k = 1) && s.regs.done || decide (k = 2) && s.regs.ovr) := by
  simp only [statusByte, BitVec.getLsbD_or, BitVec.getLsbD_shiftLeft, bitByte_getLsbD]
  rcases k with _ | _ | _ | k <;> simp

/-- R345: a read of STATUS answers with a command in flight and without. -/
theorem step_read_status {s : State} {rest : List Input} (hrst : s.rst = false)
    (hin : s.inputs = .read STATUS :: rest) :
    step s = .next { s with inputs := rest, response := some (statusByte s) } := by
  have hread : hostRead STATUS (s.take rest) = .next { s with inputs := rest, response := some (statusByte s) } := rfl
  rw [← hread]
  cases hf : s.inFlight with
  | none => exact step_of_idle hrst hf hin
  | some i => exact step_of_busy hrst hf hin

/-- Settles O8: the answer is `statusByte`, read bit by bit. -/
theorem statusReadShowsFlags : Obligations.StatusReadShowsFlags := by
  intro s rest hrst hin
  refine ⟨statusByte s, step_read_status hrst hin, ?_, ?_, ?_, fun k hk => ?_⟩
  · rw [statusByte_getLsbD]; simp
  · rw [statusByte_getLsbD]; simp
  · rw [statusByte_getLsbD]; simp
  · rw [statusByte_getLsbD]
    simp [show k ≠ 0 by omega, show k ≠ 1 by omega, show k ≠ 2 by omega]

/-! ### After a hard reset (R341, R342) -/

/-- R31: the reset values of the register map. -/
theorem regByte_reset : ∀ row ∈ regMap, ∀ k < row.size, regByte State.reset k row.name =
    if row.base + k = 0x020 then 0x20 else if row.base + k = 0x021 then 0x0E else 0x00 := by
  decide

theorem bufRead_reset (b : Buf) (i : Nat) : State.reset.bufRead b i = .error (.unwrittenRead (b.address i)) := rfl

/-- Settles O10, by what stands at the address. -/
theorem hostReadsAfterReset : Obligations.HostReadsAfterReset := by
  intro a
  have h20 : a = 0x020 ↔ a.toNat = 0x020 := BitVec.toNat_inj.symm
  have h21 : a = 0x021 ↔ a.toNat = 0x021 := BitVec.toNat_inj.symm
  simp only [h20, h21]
  rcases locate_cases a with ⟨row, hr, hc, -⟩ | ⟨b, hb, -⟩ | ⟨hnoreg, hnobuf, he⟩
  · have hcov := RegRow.covers_iff.mp hc
    rw [memRead_of_covers _ hr hc, regByte_reset row hr _ (by omega), Nat.add_sub_cancel' hcov.1,
      if_neg (mt exists_holds_iff.mpr fun ⟨_, hb⟩ => not_covers_of_holds hr hb hc)]
    split
    · rfl
    · split <;> rfl
  · have hbase := (Buf.holds_iff.mp hb).1
    have hrange := exists_holds_iff.mp ⟨b, hb⟩
    rw [memRead_of_holds _ hb, bufRead_reset, Buf.address, Nat.add_sub_cancel' hbase, if_neg (by omega),
      if_neg (by omega), if_pos hrange]
  · have htxctl := hnoreg ⟨.txctl, 0x020, 1, .rw⟩ (by decide)
    have htxAlen := hnoreg ⟨.txAlen, 0x021, 1, .rw⟩ (by decide)
    simp only [Ne, RegRow.covers_iff] at htxctl htxAlen
    rw [memRead_of_reserved _ he, if_neg (by omega), if_neg (by omega),
      if_neg (mt exists_holds_iff.mpr fun ⟨b, hb⟩ => hnobuf b hb)]

/-! ### The register map read by the host (R31) -/

/-- The read of byte `k` of a register of several bytes. -/
theorem memRead_row {row : RegRow} (s : State) (hr : row ∈ regMap) {k : Nat} (hk : k < row.size) :
    memRead s (BitVec.ofNat 16 row.base + BitVec.ofNat 16 k) = .ok (regByte s k row.name) := by
  have hend := regMap_below_buffers row hr
  have ha : (BitVec.ofNat 16 row.base + BitVec.ofNat 16 k).toNat = row.base + k := by
    rw [← BitVec.ofNat_add, BitVec.toNat_ofNat, Nat.mod_eq_of_lt (by omega)]
  rw [memRead_of_covers s hr (by rw [ha, RegRow.covers_iff]; omega), ha, Nat.add_sub_cancel_left]

/-- The same for a register held as a vector of bytes. -/
theorem memRead_vector {n : Nat} {row : RegRow} {s : State} {bytes : Vector Byte n} (hr : row ∈ regMap)
    (hsize : row.size = n) (hreg : ∀ k, regByte s k row.name = bytes[k]?.getD 0) (i : Fin n) :
    memRead s (BitVec.ofNat 16 row.base + BitVec.ofNat 16 i) = .ok bytes[i] := by
  rw [memRead_row s hr (hsize ▸ i.isLt), hreg]
  simp

/-- Settles O13: every clause is a row of the register map, read at its address. -/
theorem registerMapReads : Obligations.RegisterMapReads := by
  intro s
  refine ⟨rfl, congrArg Except.ok (bitByte_eq _), rfl, rfl, rfl, rfl, rfl, rfl, rfl, rfl, rfl, rfl, rfl, rfl, rfl, rfl,
    rfl, rfl, rfl, rfl, rfl, rfl, rfl, rfl, rfl, fun i => ⟨?_, ?_, ?_, ?_, ?_⟩, fun i => ?_,
    rfl, rfl, rfl, congrArg Except.ok (bitByte_eq _), rfl, rfl, rfl, rfl, rfl, rfl,
    congrArg Except.ok (bitByte_eq _), rfl, rfl, congrArg Except.ok (bitByte_eq _)⟩
  · exact memRead_vector (row := ⟨.txDestCall, 0x024, 6, .rw⟩) (by decide) rfl (fun _ => rfl) i
  · exact memRead_vector (row := ⟨.txSrcCall, 0x02C, 6, .rw⟩) (by decide) rfl (fun _ => rfl) i
  · exact memRead_vector (row := ⟨.localCall, 0x034, 6, .rw⟩) (by decide) rfl (fun _ => rfl) i
  · exact memRead_vector (row := ⟨.decDestCall, 0x063, 6, .ro⟩) (by decide) rfl (fun _ => rfl) i
  · exact memRead_vector (row := ⟨.decSrcCall, 0x06C, 6, .ro⟩) (by decide) rfl (fun _ => rfl) i
  · exact memRead_vector (row := ⟨.addr, 0x040, 14, .ro⟩) (by decide) rfl (fun _ => rfl) i

/-! ### A command left in flight (R48, R302) -/

/-- R111, R302: the CMD values that are commands. -/
theorem decodeByte_isCommand : ∀ c : Byte, (decodeByte c).isCommand = true ↔
    c.toNat < 0x10 ∧ c ∉ [(0x0B : Byte), 0x0C, 0x0D, 0x0E] := by
  decide

/-- R302: a CMD value that is no command only completes. -/
theorem exec_of_not_isCommand {i : Instr} (h : i.isCommand = false) (s : State) : exec i s = finish .illegalCmd s := by
  cases i with
  | reserved0b | reserved0c | reserved0d | reserved0e => rfl
  | illegal80 | illegal40 | illegal20 | illegal10 => rfl
  | _ => cases h

theorem decode_singleton {c : Byte} {i : Instr} (h : decode [c] = .ok (i, [])) : i = decodeByte c := by
  cases h; rfl

theorem runCommand_of_not_isCommand {v : Byte} (h : (decodeByte v).isCommand = false) (s : State) :
    runCommand v s = .next (s.endedWith 0x11) := by
  unfold runCommand
  rw [exec_of_not_isCommand h]
  rfl

/-- Settles O59: `issue` starts exactly the commands, and a CMD value that is none completes. -/
theorem issueLeavesCommandInFlight : Obligations.IssueLeavesCommandInFlight := by
  intro s c i rest hrst hf hin hdec
  rw [decode_singleton hdec, step_of_idle hrst hf hin]
  have hcmd := decodeByte_isCommand c
  refine ⟨fun hlt hres => ?_, fun hno => ?_⟩
  · exact if_pos (hcmd.mpr ⟨hlt, hres⟩)
  · have hnot : ¬ (decodeByte c).isCommand = true := fun h => by
      obtain ⟨hlt, hres⟩ := hcmd.mp h
      exact hno.elim (by omega) hres
    exact (if_neg hnot).trans (runCommand_of_not_isCommand (by simpa using hnot) _)

end Sys2Proof.Machine

/-! # Serialisation between bytes and bits (O21) -/
namespace Sys2Proof.Machine

theorem byteBits_getElem? (b : Byte) {j : Nat} (hj : j < 8) : (byteBits b)[j]? = some (b.getLsbD j) := by
  unfold byteBits
  interval_cases j <;> rfl

theorem bits_getElem? {s : List Byte} {i j : Nat} (hi : i < s.length) (hj : j < 8) :
    (bits s)[8 * i + j]? = some ((s.getD i 0).getLsbD j) := by
  induction s generalizing i with
  | nil => exact absurd hi (Nat.not_lt_zero i)
  | cons b s ih =>
    rw [bits_cons]
    cases i with
    | zero =>
      rw [Nat.mul_zero, Nat.zero_add, List.getElem?_append_left (by rwa [byteBits_length])]
      exact byteBits_getElem? b hj
    | succ i =>
      rw [List.getElem?_append_right (by rw [byteBits_length]; omega), byteBits_length,
        show 8 * (i + 1) + j - 8 = 8 * i + j by omega]
      exact ih (Nat.lt_of_succ_lt_succ hi)

theorem packBytes_getLsbD {n k : Nat} {q : List Bool} (hk : k < 8 * n) :
    ((packBytes n q).getD (k / 8) 0).getLsbD (k % 8) = q.getD k false := by
  induction n generalizing q k with
  | zero => exact absurd hk (Nat.not_lt_zero k)
  | succ n ih =>
    rw [packBytes]
    by_cases h8 : k < 8
    · rw [Nat.div_eq_of_lt h8, Nat.mod_eq_of_lt h8, List.getD_cons_zero, byteOfBits_getLsbD _ _ h8]
      simp [List.getD_eq_getElem?_getD, h8]
    · obtain ⟨m, rfl⟩ := Nat.exists_eq_add_of_le' (Nat.le_of_not_lt h8)
      rw [Nat.add_div_right m (by decide), Nat.add_mod_right, List.getD_cons_succ, ih (by omega)]
      simp [List.getD_eq_getElem?_getD, Nat.add_comm]

/-- R86: the bits past the end of the sequence are the final byte's zero bits, or stand in no byte. -/
theorem pack_getLsbD (q : List Bool) (k : Nat) : ((pack q).getD (k / 8) 0).getLsbD (k % 8) = q.getD k false := by
  by_cases hk : k < 8 * byteCount q.length
  · exact packBytes_getLsbD hk
  · have hlen : q.length ≤ 8 * byteCount q.length := by unfold byteCount; omega
    rw [List.getD_eq_default _ _ (by rw [pack_length]; omega), List.getD_eq_default _ _ (by omega)]
    exact BitVec.getLsbD_zero

theorem byteOfBits_byteBits (b : Byte) : byteOfBits (byteBits b) = b := by
  apply BitVec.eq_of_getLsbD_eq
  intro j hj
  rw [byteOfBits_getLsbD _ _ hj, List.getD_eq_getElem?_getD, byteBits_getElem? b hj, Option.getD_some]

theorem packBytes_bits (s : List Byte) : packBytes s.length (bits s) = s := by
  induction s with
  | nil => rfl
  | cons b s ih =>
    rw [List.length_cons, packBytes, bits_cons, List.take_left' (byteBits_length b), List.drop_left' (byteBits_length b),
      byteOfBits_byteBits, ih]

theorem pack_bits (s : List Byte) : pack (bits s) = s := by
  have hcount : byteCount (bits s).length = s.length := by rw [bits_length, byteCount]; omega
  rw [pack, hcount, packBytes_bits]

/-- Settles O21: each clause is a lemma about `bits` or `pack`, by induction on the bytes. -/
theorem packAndBitsAreLsbFirst : Obligations.PackAndBitsAreLsbFirst :=
  ⟨bits_length, fun _ _ _ hi hj => bits_getElem? hi hj, pack_length, pack_getLsbD, pack_bits⟩

end Sys2Proof.Machine

/-! # What a host access reaches (O14, O16, O12) -/
namespace Sys2Proof.Machine

/-! ### Read-only registers and reserved addresses (R83, R84) -/

theorem memWrite_of_covers_ro {row : RegRow} {a : Addr} (v : Byte) (s : State) (hr : row ∈ regMap)
    (hc : row.covers a.toNat = true) (hacc : row.access = .ro) : memWrite a v s = s := by
  unfold memWrite
  rw [locate_of_covers hr hc]
  simp only [hacc]

theorem memWrite_of_reserved {a : Addr} (v : Byte) (s : State) (h : locate a = .reserved) : memWrite a v s = s := by
  unfold memWrite
  rw [h]

/-- R31: the read-only addresses. -/
theorem readOnly_addresses : ∀ n < 0x72,
    n ∈ [0x002, 0x008, 0x009, 0x018, 0x01C, 0x01D] ∨ (0x040 ≤ n ∧ n ≤ 0x04D) ∨ (0x050 ≤ n ∧ n ≤ 0x057) ∨ 0x060 ≤ n →
    ∃ row ∈ regMap, row.covers n = true ∧ row.access = .ro := by
  decide

/-- R31: the gaps of the register map, and its end. -/
theorem regMap_gaps : ∀ row ∈ regMap,
    (row.base + row.size ≤ 0x004 ∨ 0x008 ≤ row.base) ∧ (row.base + row.size ≤ 0x00A ∨ 0x010 ≤ row.base) ∧
    (row.base + row.size ≤ 0x019 ∨ 0x01A ≤ row.base) ∧ (row.base + row.size ≤ 0x01E ∨ 0x020 ≤ row.base) ∧
    (row.base + row.size ≤ 0x03A ∨ 0x040 ≤ row.base) ∧ (row.base + row.size ≤ 0x04E ∨ 0x050 ≤ row.base) ∧
    (row.base + row.size ≤ 0x058 ∨ 0x060 ≤ row.base) ∧ row.base + row.size ≤ 0x072 := by
  decide

theorem locate_of_uncovered {a : Addr} (hreg : ∀ row ∈ regMap, row.covers a.toNat ≠ true)
    (hbuf : ¬ ∃ b : Buf, b.holds a.toNat = true) : locate a = .reserved := by
  rcases locate_cases a with ⟨row, hr, hc, -⟩ | ⟨b, hb, -⟩ | ⟨-, -, he⟩
  · exact absurd hc (hreg row hr)
  · exact absurd ⟨b, hb⟩ hbuf
  · exact he

/-- Settles O16: a read-only address has a read-only row, a reserved one lies in a gap or past the end of the
register map and in no buffer. -/
theorem readOnlyAndReservedIgnoreWrites : Obligations.ReadOnlyAndReservedIgnoreWrites := by
  intro s a v
  refine ⟨fun ha => ?_, fun ha => ?_, rfl⟩
  · have hlt : a.toNat < 0x72 := by
      simp only [List.mem_cons, List.not_mem_nil, or_false] at ha
      omega
    obtain ⟨row, hr, hc, hacc⟩ := readOnly_addresses a.toNat hlt (ha.imp_right (.imp_right (.imp_right And.left)))
    exact memWrite_of_covers_ro v s hr hc hacc
  · have hreg : ∀ row ∈ regMap, row.covers a.toNat ≠ true := fun row hr => by
      have hgaps := regMap_gaps row hr
      rw [Ne, RegRow.covers_iff]
      omega
    have hloc : locate a = .reserved := locate_of_uncovered hreg (by rw [exists_holds_iff]; omega)
    exact ⟨memWrite_of_reserved v s hloc, memRead_of_reserved s hloc⟩

/-! ### The frame of a host write (R88, R90) -/

theorem locate_reg {a : Addr} {row : RegRow} {k : Nat} (h : locate a = .reg row k) :
    row ∈ regMap ∧ k < row.size ∧ row.base + k = a.toNat := by
  rcases locate_cases a with ⟨r, hr, hc, he⟩ | ⟨b, -, he⟩ | ⟨-, -, he⟩
  · rw [he] at h
    cases h
    rw [RegRow.covers_iff] at hc
    exact ⟨hr, by omega, by omega⟩
  · rw [he] at h; cases h
  · rw [he] at h; cases h

/-- R31: how many bytes a register has. -/
def Reg.bytes : Reg → Nat
  | .infoLen | .logLen | .rawLen | .rawBits | .fcs | .fcsCalc => 2
  | .txDestCall | .txSrcCall | .localCall | .decDestCall | .decSrcCall => 6
  | .addr => 14
  | _ => 1

theorem regMap_size : ∀ row ∈ regMap, row.size = row.name.bytes := by decide

/-- R31: a register has one row. -/
theorem regMap_name_inj : ∀ r ∈ regMap, ∀ r' ∈ regMap, r.name = r'.name → r = r' := by decide

/-- R85, R88: the other byte of a 16-bit register. -/
theorem byteOf_setByteOf_of_ne (w : Half) {k k' : Nat} (hk : k < 2) (hk' : k' < 2) (h : k' ≠ k) (v : Byte) :
    byteOf (setByteOf w k v) k' = byteOf w k' := by
  unfold byteOf setByteOf
  by_cases h0 : k = 0
  · rw [if_pos h0, if_neg (by omega), if_neg (by omega), hi8, ofBytes, BitVec.extractLsb'_append_eq_left]
  · rw [if_neg h0, if_pos (by omega), if_pos (by omega), lo8, ofBytes, BitVec.extractLsb'_append_eq_right]

/-- R43: the other characters of a call-sign. -/
theorem setChar_getD_of_ne (t : Station) {k k' : Nat} (h : k' ≠ k) (v : Byte) :
    (t.setChar k v).call[k']?.getD 0 = t.call[k']?.getD 0 := by
  rw [Station.setChar, Vector.getElem?_setIfInBounds_ne h.symm]

/-- R88: the other bytes of the register written. -/
theorem regByte_writeReg_other_byte (s : State) {g : Reg} {k k' : Nat} (hk : k < g.bytes) (hk' : k' < g.bytes)
    (h : k' ≠ k) (v : Byte) : regByte { s with regs := writeReg k v s.regs g } k' g = regByte s k' g := by
  cases g with
  | infoLen | logLen | rawLen | rawBits | fcs => exact byteOf_setByteOf_of_ne _ hk hk' h v
  | txDestCall | txSrcCall | localCall => exact setChar_getD_of_ne _ h v
  | fcsCalc | addr | decDestCall | decSrcCall => rfl
  | _ => exact absurd ((Nat.lt_one_iff.mp hk').trans (Nat.lt_one_iff.mp hk).symm) h

/-- R88: the other registers. -/
theorem regByte_writeReg_other_reg (s : State) {g g' : Reg} (h : g' ≠ g) (k k' : Nat) (v : Byte) :
    regByte { s with regs := writeReg k v s.regs g } k' g' = regByte s k' g' := by
  cases g with
  | cmd | result | vs | vr | dstfTail | fcsCalc | addr => rfl
  | rxKind | rxNs | rxNr | rxPf | rxScode | rxCtrl0 | rxCtrl1 | rxPid => rfl
  | decDestLen | decDestSsid | decDestExt | decDestCall | decSrcLen | decSrcSsid | decSrcExt | decSrcCall => rfl
  | _ => cases g' <;> simp only [ne_eq, not_true_eq_false, reduceCtorEq, not_false_eq_true] at h <;> rfl

/-- R88: a write of a register's byte changes no other byte of the register map. -/
theorem regByte_writeReg_other (s : State) {r r' : RegRow} {k k' : Nat} (hr : r ∈ regMap) (hr' : r' ∈ regMap)
    (hk : k < r.size) (hk' : k' < r'.size) (h : r'.base + k' ≠ r.base + k) (v : Byte) :
    regByte { s with regs := writeReg k v s.regs r.name } k' r'.name = regByte s k' r'.name := by
  by_cases hname : r'.name = r.name
  · obtain rfl := regMap_name_inj r' hr' r hr hname
    rw [regMap_size r' hr] at hk hk'
    exact regByte_writeReg_other_byte s hk hk' (by omega) v
  · exact regByte_writeReg_other_reg s hname k k' v

/-- R90: a host write changes no buffer byte but its own. -/
theorem memWrite_mem_read (s : State) (a : Addr) (v : Byte) {x : Nat} (hx : x ≠ a.toNat) :
    (memWrite a v s).mem.read x = s.mem.read x := by
  rcases memWrite_cases a v s with ⟨row, k, -, he⟩ | ⟨b, i, hloc, he⟩ | he
  · rw [he]
  · have haddr := (locate_buf hloc).2
    rw [he]
    exact s.bufWrite_keepsOutside b i [v] x (by simp only [List.length_singleton]; omega)
  · rw [he]

/-- A host write changes only registers and memory. -/
theorem memWrite_frame (s : State) (a : Addr) (v : Byte) :
    (memWrite a v s).inFlight = s.inFlight ∧ (memWrite a v s).rst = s.rst ∧
      (memWrite a v s).inputs = s.inputs ∧ (memWrite a v s).response = s.response := by
  rcases memWrite_cases a v s with ⟨row, k, -, he⟩ | ⟨b, i, -, he⟩ | he <;> rw [he] <;> exact ⟨rfl, rfl, rfl, rfl⟩

/-- A register byte reads the registers and BUSY only. -/
theorem regByte_congr {s t : State} (hr : t.regs = s.regs) (hf : t.inFlight = s.inFlight) (k : Nat) (g : Reg) :
    regByte t k g = regByte s k g := by
  unfold regByte statusByte
  rw [hr, hf]

theorem regByte_memWrite_other (s : State) {a : Addr} (v : Byte) {row : RegRow} {k : Nat} (hr : row ∈ regMap)
    (hk : k < row.size) (h : row.base + k ≠ a.toNat) : regByte (memWrite a v s) k row.name = regByte s k row.name := by
  rcases memWrite_cases a v s with ⟨r, i, hloc, he⟩ | ⟨b, i, -, he⟩ | he
  · obtain ⟨hr', hi, ha⟩ := locate_reg hloc
    rw [he]
    exact regByte_writeReg_other s hr' hr hi hk (ha ▸ h) v
  · rw [he]
    exact regByte_congr rfl rfl k row.name
  · rw [he]

theorem State.bufRead_congr {s t : State} {b : Buf} {i : Nat} (h : t.mem.read (b.address i) = s.mem.read (b.address i)) :
    t.bufRead b i = s.bufRead b i := by
  unfold State.bufRead
  rw [h]

/-- R88, R90: the other addresses read as before. -/
theorem memRead_memWrite_other (s : State) {a b : Addr} (v : Byte) (h : b ≠ a) :
    memRead (memWrite a v s) b = memRead s b := by
  have hne : b.toNat ≠ a.toNat := mt BitVec.eq_of_toNat_eq h
  rcases locate_cases b with ⟨row, hr, hc, -⟩ | ⟨buf, hb, -⟩ | ⟨-, -, hloc⟩
  · obtain ⟨hlo, hhi⟩ := RegRow.covers_iff.mp hc
    rw [memRead_of_covers _ hr hc, memRead_of_covers s hr hc,
      regByte_memWrite_other s v hr (by omega) (by rwa [Nat.add_sub_cancel' hlo])]
  · have haddr : buf.address (b.toNat - buf.base) = b.toNat := Nat.add_sub_cancel' (Buf.holds_iff.mp hb).1
    rw [memRead_of_holds _ hb, memRead_of_holds s hb]
    exact State.bufRead_congr (memWrite_mem_read s a v (haddr.symm ▸ hne))
  · rw [memRead_of_reserved _ hloc, memRead_of_reserved s hloc]

/-- Settles O14: what the host reads elsewhere, by what stands there; the rest, by what a host write can do. -/
theorem hostWriteReachesOnlyItsByte : Obligations.HostWriteReachesOnlyItsByte := fun s a v =>
  ⟨fun _ hb => memRead_memWrite_other s v hb, fun _ hx => memWrite_mem_read s a v hx, memWrite_frame s a v⟩

/-! ### An access of the idle block (R80, R90, R91) -/

/-- A host read does not look at the inputs or at the answer before it. -/
theorem memRead_take (s : State) (rest : List Input) (a : Addr) : memRead (s.take rest) a = memRead s a := by
  unfold memRead
  cases locate a with
  | reg row k => exact congrArg Except.ok (regByte_congr rfl rfl k row.name)
  | buf b i => rfl
  | reserved => rfl

theorem hostRead_of_ok {s : State} {a : Addr} {v : Byte} (h : memRead s a = .ok v) : hostRead a s = .next (s.respond v) := by
  unfold hostRead
  rw [h]

theorem hostRead_of_error {s : State} {a : Addr} {f : Fault} (h : memRead s a = .error f) : hostRead a s = .fault f := by
  unfold hostRead
  rw [h]

/-- Settles O12: the step is `idleInput`, which is `hostRead` of a read and `memWrite` of a write but to CMD. -/
theorem idleHostAccess : Obligations.IdleHostAccess := by
  intro s a rest hrst hf
  refine ⟨fun v hin hv => ?_, fun f hin hv => ?_, fun v ha hin => ?_⟩
  · rw [step_of_idle hrst hf hin]
    exact hostRead_of_ok ((memRead_take s rest a).trans hv)
  · rw [step_of_idle hrst hf hin]
    exact hostRead_of_error ((memRead_take s rest a).trans hv)
  · rw [step_of_idle hrst hf hin]
    exact if_neg ha

end Sys2Proof.Machine

/-! # The faults of the commands (O55)

Every command ends in a next state or in the fault of a buffer byte that it may read and that is unwritten. -/
namespace Sys2Proof.Machine

/-- The outcome of a command that ran from `s`: a next state, or the fault of an unwritten byte within a buffer's
capacity (R91). -/
def CompletesOrReadsUnwritten (s : State) (o : Outcome) : Prop :=
  (∃ t, o = .next t) ∨ ∃ (b : Buf) (i : Nat), i < b.cap ∧ s.mem.read (b.address i) = none ∧
    o = .fault (.unwrittenRead (b.address i))

theorem completesOrReadsUnwritten_next (s t : State) : CompletesOrReadsUnwritten s (.next t) := .inl ⟨t, rfl⟩

/-- The fault of a read that stays within the capacity. -/
theorem State.firstUnwritten.completesOrReadsUnwritten {s : State} {b : Buf} {i n k : Nat}
    (h : s.firstUnwritten b i n k) (hcap : i + n ≤ b.cap) :
    CompletesOrReadsUnwritten s (.fault (.unwrittenRead (b.address k))) := by
  obtain ⟨-, hlt, hnone, -⟩ := h
  exact .inr ⟨b, k, by omega, hnone, rfl⟩

/-- STUFF, FCSGEN and FCSCHK read the LOG_LEN bytes of LOG after one length check (R153, R185, R186). -/
theorem completesOrReadsUnwritten_of_log_read {s : State} {o : Outcome} {n : Nat} {t : State} {u : List Byte → State}
    (h : (274 < n ∧ o = .next t) ∨
      (n ≤ 274 ∧ ∃ bytes, bytes.length = n ∧ s.holds .log 0 bytes ∧ o = .next (u bytes)) ∨
      (n ≤ 274 ∧ ∃ k, s.firstUnwritten .log 0 n k ∧ o = .fault (.unwrittenRead (Buf.log.address k)))) :
    CompletesOrReadsUnwritten s o := by
  rcases h with ⟨-, he⟩ | ⟨-, bytes, -, -, he⟩ | ⟨hle, k, hk, he⟩ <;> rw [he]
  · exact completesOrReadsUnwritten_next s _
  · exact completesOrReadsUnwritten_next s _
  · exact hk.completesOrReadsUnwritten (by rwa [Nat.zero_add])

theorem execDestuff_completesOrReadsUnwritten (s : State) : CompletesOrReadsUnwritten s (execDestuff s) := by
  rcases execDestuff_cases s with ⟨-, he⟩ | ⟨-, bytes, d, -, -, -, he⟩ | ⟨hle, k, hk, he⟩ <;> rw [he]
  · exact completesOrReadsUnwritten_next s _
  · exact completesOrReadsUnwritten_next s _
  · have hcount : byteCount s.regs.rawBits.toNat ≤ 331 := by unfold byteCount; omega
    exact hk.completesOrReadsUnwritten (by rwa [Nat.zero_add])

theorem execAenc_completesOrReadsUnwritten (s : State) : CompletesOrReadsUnwritten s (execAenc s) := by
  rcases execAenc_cases s with ⟨-, he⟩ | ⟨-, -, he⟩ <;> rw [he]
  · exact completesOrReadsUnwritten_next s _
  · exact completesOrReadsUnwritten_next s _

theorem execAdec_completesOrReadsUnwritten (s : State) : CompletesOrReadsUnwritten s (execAdec s) := by
  rcases execAdec_cases s with ⟨-, he⟩ | ⟨-, he⟩ | ⟨-, -, ⟨bytes, -, -, he⟩ | ⟨k, hk, he⟩⟩ <;> rw [he]
  · exact completesOrReadsUnwritten_next s _
  · exact completesOrReadsUnwritten_next s _
  · exact completesOrReadsUnwritten_next s _
  · exact hk.completesOrReadsUnwritten (by decide)

theorem execAsm_completesOrReadsUnwritten (s : State) : CompletesOrReadsUnwritten s (execAsm s) := by
  rcases execAsm_cases s with ⟨-, he⟩ | ⟨ft, c, -, -, he⟩ | ⟨ft, -, hc, ⟨payload, -, -, he⟩ | ⟨k, hk, he⟩⟩ <;> rw [he]
  · exact completesOrReadsUnwritten_next s _
  · exact completesOrReadsUnwritten_next s _
  · exact completesOrReadsUnwritten_next s _
  · obtain ⟨-, -, -, -, hle⟩ := asmCheck_none.mp hc
    exact hk.completesOrReadsUnwritten (by rwa [Nat.zero_add])

/-! ### PARSE, which reads no buffer byte once it has its interior -/

theorem parseControl_completes (frame : List Byte) (s : State) : ∃ t, parseControl frame s = .next t := by
  rcases parseControl_cases frame s with ⟨-, he⟩ | ⟨-, he⟩ <;> rw [he]
  · rcases parseInfo_cases frame (s.rxInfo frame) with ⟨-, he⟩ | ⟨-, -, he⟩ | ⟨-, -, -, he⟩ | ⟨-, -, -, he⟩ <;>
      exact ⟨_, he⟩
  · rcases parseSup_cases frame (s.rxSup frame) with ⟨-, he⟩ | ⟨-, he⟩ <;> exact ⟨_, he⟩

theorem parseAddress_completes (frame : List Byte) (s : State) : ∃ t, parseAddress frame s = .next t := by
  rcases parseAddress_cases frame s with ⟨-, he⟩ | ⟨-, he⟩
  · rw [he]; exact parseControl_completes frame _
  · exact ⟨_, he⟩

theorem parseFcs_completes (frame : List Byte) (s : State) : ∃ t, parseFcs frame s = .next t := by
  obtain ⟨t, -, ⟨-, he⟩ | ⟨-, he⟩⟩ := parseFcs_cases frame s
  · rw [he]; exact parseAddress_completes frame t
  · exact ⟨_, he⟩

theorem parseBody_completes (interior : List Byte) (s : State) : ∃ t, parseBody interior s = .next t := by
  obtain ⟨d, -, ⟨-, he⟩ | ⟨-, -, -, he⟩ | ⟨-, he⟩⟩ := parseBody_cases interior s
  · exact ⟨_, he⟩
  · exact ⟨_, he⟩
  · rw [he]; exact parseFcs_completes _ _

theorem parseFlags_completesOrReadsUnwritten {n : Nat} (h1 : 1 ≤ n) (hn : n ≤ 331) (s : State) :
    CompletesOrReadsUnwritten s (parseFlags n s) := by
  have hcap : Buf.raw.cap = 331 := rfl
  rcases parseFlags_cases n s with ⟨hno, he⟩ | ⟨b, -, -, he⟩ |
    ⟨-, ⟨hno, he⟩ | ⟨b, -, -, he⟩ | ⟨-, ⟨interior, -, -, he⟩ | ⟨k, hk, he⟩⟩⟩ <;> rw [he]
  · exact .inr ⟨.raw, 0, by decide, hno, rfl⟩
  · exact completesOrReadsUnwritten_next s _
  · exact .inr ⟨.raw, n - 1, by omega, hno, rfl⟩
  · exact completesOrReadsUnwritten_next s _
  · exact .inl (parseBody_completes interior s)
  · exact hk.completesOrReadsUnwritten (by omega)

theorem execParse_completesOrReadsUnwritten (s : State) : CompletesOrReadsUnwritten s (execParse s) := by
  rcases execParse_cases s with ⟨-, he⟩ | ⟨-, -, he⟩ | ⟨-, -, he⟩ | ⟨-, h1, hn, he⟩ <;> rw [he]
  · exact completesOrReadsUnwritten_next s _
  · exact completesOrReadsUnwritten_next s _
  · exact completesOrReadsUnwritten_next s _
  · exact parseFlags_completesOrReadsUnwritten h1 hn s.rxCleared

/-! ### Every command -/

theorem exec_completesOrReadsUnwritten (i : Instr) (s : State) : CompletesOrReadsUnwritten s (exec i s) := by
  cases i with
  | stuff => exact completesOrReadsUnwritten_of_log_read (execStuff_cases s)
  | destuff => exact execDestuff_completesOrReadsUnwritten s
  | fcsgen => exact completesOrReadsUnwritten_of_log_read (execFcsgen_cases s)
  | fcschk => exact completesOrReadsUnwritten_of_log_read (execFcschk_cases s)
  | aenc => exact execAenc_completesOrReadsUnwritten s
  | adec => exact execAdec_completesOrReadsUnwritten s
  | asm => exact execAsm_completesOrReadsUnwritten s
  | parse => exact execParse_completesOrReadsUnwritten s
  | nop | incvs | incvr | srst => exact completesOrReadsUnwritten_next s _
  | reserved0b | reserved0c | reserved0d | reserved0e => exact completesOrReadsUnwritten_next s _
  | illegal80 | illegal40 | illegal20 | illegal10 => exact completesOrReadsUnwritten_next s _

/-- Settles O55: by what every command's outcome is; the byte of a fault stands at a buffer's address. -/
theorem commandsFaultOnlyOnUnwrittenBytes : Obligations.CommandsFaultOnlyOnUnwrittenBytes := by
  intro i s
  rcases exec_completesOrReadsUnwritten i s with ⟨t, he⟩ | ⟨b, k, hk, hno, he⟩ <;> rw [he]
  · exact ⟨fun r => nofun, fun f => nofun⟩
  · refine ⟨fun r => nofun, fun f hf => ?_⟩
    cases hf
    have hin : b.holds (b.address k) = true := Buf.holds_iff.mpr ⟨Nat.le_add_right _ _, Nat.add_lt_add_left hk _⟩
    exact ⟨b.address k, rfl, hno, exists_holds_iff.mp ⟨b, hin⟩⟩

end Sys2Proof.Machine

/-! # The decoder and the encoder (O3, O1, O2, O4) -/
namespace Sys2Proof.Machine

/-! ### Decoding an encoded instruction (R110, R111) -/

/-- R113: a CMD value of an ILLEGAL row has the row's bit as its highest set bit of CMD[7:4]. -/
theorem decodeByte_of_matchesRow : ∀ c : Byte,
    (matchesRow 0x80 0x80 c = true → decodeByte c = .illegal80 c) ∧
    (matchesRow 0xC0 0x40 c = true → decodeByte c = .illegal40 c) ∧
    (matchesRow 0xE0 0x20 c = true → decodeByte c = .illegal20 c) ∧
    (matchesRow 0xF0 0x10 c = true → decodeByte c = .illegal10 c) := by
  decide

theorem decodeByte_encodeByte {i : Instr} (h : i.wf = true) : decodeByte (encodeByte i) = i := by
  cases i with
  | illegal80 c => exact (decodeByte_of_matchesRow c).1 h
  | illegal40 c => exact (decodeByte_of_matchesRow c).2.1 h
  | illegal20 c => exact (decodeByte_of_matchesRow c).2.2.1 h
  | illegal10 c => exact (decodeByte_of_matchesRow c).2.2.2 h
  | _ => rfl

/-- R110: a command is one byte, and the bytes after it are left. -/
theorem decode_encode_append {i : Instr} (h : i.wf = true) (rest : List Byte) :
    decode (encode i ++ rest) = .ok (i, rest) :=
  congrArg (fun j => Except.ok (j, rest)) (decodeByte_encodeByte h)

/-- Settles O3: the decoder takes the one byte of the encoding, which stands for the instruction. -/
theorem decodeInvertsEncode : Obligations.DecodeInvertsEncode := fun _ rest h => decode_encode_append h rest

theorem decode_encode {i : Instr} (h : i.wf = true) : decode [encodeByte i] = .ok (i, []) := decode_encode_append h []

/-- Settles O1: each clause decodes the encoding of a well-formed instruction. -/
theorem commandBytesDecode : Obligations.CommandBytesDecode :=
  ⟨decode_encode (i := .nop) rfl, decode_encode (i := .stuff) rfl, decode_encode (i := .destuff) rfl,
    decode_encode (i := .fcsgen) rfl, decode_encode (i := .fcschk) rfl, decode_encode (i := .aenc) rfl,
    decode_encode (i := .adec) rfl, decode_encode (i := .asm) rfl, decode_encode (i := .parse) rfl,
    decode_encode (i := .incvs) rfl, decode_encode (i := .incvr) rfl, decode_encode (i := .srst) rfl,
    decode_encode (i := .reserved0b) rfl, decode_encode (i := .reserved0c) rfl,
    decode_encode (i := .reserved0d) rfl, decode_encode (i := .reserved0e) rfl,
    decode_encode (i := .illegal80 0x80) rfl, decode_encode (i := .illegal40 0x7F) rfl,
    decode_encode (i := .illegal20 0x2C) rfl, decode_encode (i := .illegal10 0x1F) rfl⟩

/-! ### Encoding a decoded byte (R111-R113) -/

theorem decodeOp_wf : ∀ op : BitVec 4, (decodeOp op).wf = true := by decide

theorem encodeByte_decodeOp : ∀ op : BitVec 4, encodeByte (decodeOp op) = op.setWidth 8 := by decide

theorem setWidth_opField : ∀ c : Byte, mbzField c = 0 → (opField c).setWidth 8 = c := by decide

/-- R113: the four ILLEGAL rows cover every CMD value with CMD[7:4] ≠ 0. -/
theorem decodeIllegal_wf : ∀ c : Byte, mbzField c ≠ 0 → (decodeIllegal c).wf = true := by decide

theorem encodeByte_decodeIllegal (c : Byte) : encodeByte (decodeIllegal c) = c := by
  unfold decodeIllegal
  split_ifs <;> rfl

theorem decodeByte_wf (c : Byte) : (decodeByte c).wf = true := by
  unfold decodeByte
  split
  · exact decodeOp_wf _
  · next h => exact decodeIllegal_wf c h

theorem encodeByte_decodeByte (c : Byte) : encodeByte (decodeByte c) = c := by
  unfold decodeByte
  split
  · next h => rw [encodeByte_decodeOp, setWidth_opField c h]
  · exact encodeByte_decodeIllegal c

/-- Settles O2: by whether CMD[7:4] is 0, and by the CMD values that are commands. -/
theorem everyByteDecodesToItsRow : Obligations.EveryByteDecodesToItsRow := fun c =>
  ⟨decodeByte_wf c, encodeByte_decodeByte c, decodeByte_isCommand c⟩

/-! ### The step that runs a command (R112, R94) -/

theorem idleInput_write_cmd (v : Byte) (s : State) : idleInput (.write CMD v) s = runCommand v s := by
  unfold idleInput
  exact if_pos rfl

/-- Settles O4: an idle block's CMD write is `runCommand`, which runs the decoded instruction once it is in flight. -/
theorem stepRunsDecodedCommand : Obligations.StepRunsDecodedCommand := by
  intro s c i rest hrst hf hin hdec
  rw [decode_singleton hdec, step_of_idle hrst hf hin]
  exact idleInput_write_cmd c _

end Sys2Proof.Machine

/-! # The layout of the logical frame (O35) -/
namespace Sys2Proof.Machine

/-! ### The address and control fields (R118-R120, R202) -/

@[simp] theorem encAddr_length (dest src : Station) : (encAddr dest src).length = 14 := rfl

/-- R44: the ADDR registers hold a 14-byte address field byte by byte. -/
theorem addrRegs_toList {a : List Byte} (h : a.length = 14) : (addrRegs a).toList = a := by
  apply List.ext_getElem
  · rw [Vector.length_toList, h]
  · intro i _ hi
    simp [addrRegs, hi]

/-- A sequence number stands above the low bit. -/
theorem seqByte_eq : ∀ (n : BitVec 7) (low : Bool), seqByte n low = n ++ BitVec.ofBool low := by decide

/-- R118. -/
theorem controlField_info (pf : Bool) (vs vr : BitVec 7) :
    controlField .info pf vs vr = [vs ++ 0#1, vr ++ BitVec.ofBool pf] := by
  rw [controlField, seqByte_eq, seqByte_eq]
  rfl

/-- R119: C0 is 0000 SS 01. -/
theorem controlField_sup (ss : BitVec 2) (pf : Bool) (vs vr : BitVec 7) :
    controlField (.sup ss) pf vs vr = [0x0#4 ++ ss ++ 0x1#2, vr ++ BitVec.ofBool pf] := by
  have hc0 : ∀ ss : BitVec 2, (0x01 : Byte) ||| (ss.setWidth 8 <<< 2) = 0x0#4 ++ ss ++ 0x1#2 := by decide
  rw [← hc0, ← seqByte_eq]
  rfl

/-- R120: C0 is 000 P 0011. -/
theorem controlField_ui (pf : Bool) (vs vr : BitVec 7) :
    controlField .ui pf vs vr = [0x0#3 ++ BitVec.ofBool pf ++ 0x3#4] := by
  cases pf <;> rfl

/-! ### The information field (R223) -/

/-- R223: the information field of an I or UI frame. -/
def infoField (payload : List Byte) : List Byte := payload ++ zeros (255 - payload.length)

theorem pidInfo_of_carriesInfo {ft : FrameType} (h : ft.carriesInfo = true) (payload : List Byte) :
    pidInfo ft payload = 0xF0 :: infoField payload := if_pos h

theorem infoField_length {payload : List Byte} (h : payload.length ≤ 255) : (infoField payload).length = 255 := by
  rw [infoField, List.length_append, zeros, List.length_replicate]
  omega

theorem infoField_getElem? {payload : List Byte} {i : Nat} (hl : payload.length ≤ 255) (hi : i < 255) :
    (infoField payload)[i]? = some (payload.getD i 0) := by
  unfold infoField
  by_cases h : i < payload.length
  · rw [List.getElem?_append_left h, List.getD_eq_getElem?_getD, List.getElem?_eq_getElem h, Option.getD_some]
  · rw [List.getElem?_append_right (by omega), zeros, List.getElem?_replicate_of_lt (by omega),
      List.getD_eq_default _ _ (by omega)]

/-! ### The FCS field (R121, R224) -/

@[simp] theorem withFcs_length (body : List Byte) : (withFcs body).length = body.length + 2 := by
  rw [withFcs, List.length_append]
  rfl

/-- The FCS covers the bytes before its field. -/
theorem withFcs_take (body : List Byte) : (withFcs body).take ((withFcs body).length - 2) = body := by
  rw [withFcs_length, Nat.add_sub_cancel, withFcs, List.take_left]

/-- The FCS field ends the frame, its low byte first. -/
theorem withFcs_last_two (body : List Byte) :
    (withFcs body)[(withFcs body).length - 2]? = some (lo8 (fcsCompute body)) ∧
      (withFcs body)[(withFcs body).length - 1]? = some (hi8 (fcsCompute body)) := by
  have h1 : body.length + 2 - 1 - body.length = 1 := by omega
  rw [withFcs_length, Nat.add_sub_cancel, withFcs, List.getElem?_append_right (Nat.le_refl _),
    List.getElem?_append_right (by omega), Nat.sub_self, h1]
  exact ⟨rfl, rfl⟩

/-! ### The frame -/

theorem frame_getElem?_address (ft : FrameType) (payload : List Byte) (r : Regs) {i : Nat} (hi : i < 14) :
    (withFcs (frameBody ft payload r))[i]? = some ((addrRegs (encAddr r.txDest r.txSrc)).toList.getD i 0) := by
  have hlen : i < (encAddr r.txDest r.txSrc).length := hi
  rw [addrRegs_toList (encAddr_length _ _), withFcs, frameBody, List.append_assoc, List.append_assoc,
    List.getElem?_append_left hlen, List.getD_eq_getElem?_getD, List.getElem?_eq_getElem hlen, Option.getD_some]

/-- R121: the control field follows the address field. -/
theorem frame_getElem?_control {ft : FrameType} {payload : List Byte} {r : Regs} {j : Nat} {c : Byte}
    (h : (controlField ft (pfField r.txctl) r.vs r.vr)[j]? = some c) :
    (withFcs (frameBody ft payload r))[14 + j]? = some c := by
  obtain ⟨hj, -⟩ := List.getElem?_eq_some_iff.mp h
  rw [withFcs, frameBody, List.append_assoc, List.append_assoc,
    List.getElem?_append_right (by rw [encAddr_length]; omega), encAddr_length, Nat.add_sub_cancel_left,
    List.getElem?_append_left hj, h]

/-- R121: the PID and the information field follow the control field. -/
theorem frame_getElem?_pidInfo {ft : FrameType} {payload : List Byte} {r : Regs} {n j : Nat} {c : Byte}
    (hn : (controlField ft (pfField r.txctl) r.vs r.vr).length = n) (h : (pidInfo ft payload)[j]? = some c) :
    (withFcs (frameBody ft payload r))[14 + n + j]? = some c := by
  obtain ⟨hj, -⟩ := List.getElem?_eq_some_iff.mp h
  have hpre : (encAddr r.txDest r.txSrc ++ controlField ft (pfField r.txctl) r.vs r.vr).length = 14 + n := by
    rw [List.length_append, encAddr_length, hn]
  rw [withFcs, frameBody, List.append_assoc, List.getElem?_append_right (by omega), hpre, Nat.add_sub_cancel_left,
    List.getElem?_append_left hj, h]

theorem frame_length (ft : FrameType) (payload : List Byte) (r : Regs) :
    (withFcs (frameBody ft payload r)).length =
      14 + (controlField ft (pfField r.txctl) r.vs r.vr).length + (pidInfo ft payload).length + 2 := by
  rw [withFcs_length, frameBody, List.length_append, List.length_append, encAddr_length]

/-- R118, R120: what follows the `n` control bytes of a frame that carries information. -/
theorem frame_of_carriesInfo {ft : FrameType} {payload : List Byte} {r : Regs} {n : Nat} (hft : ft.carriesInfo = true)
    (hl : payload.length ≤ 255) (hn : (controlField ft (pfField r.txctl) r.vs r.vr).length = n) :
    (withFcs (frameBody ft payload r)).length = 272 + n ∧ (withFcs (frameBody ft payload r))[14 + n]? = some 0xF0 ∧
      ∀ i, i < 255 → (withFcs (frameBody ft payload r))[15 + n + i]? = some (payload.getD i 0) := by
  have hpid := pidInfo_of_carriesInfo hft payload
  have hlen : (pidInfo ft payload).length = 256 := by rw [hpid, List.length_cons, infoField_length hl]
  refine ⟨by rw [frame_length, hn, hlen]; omega, ?_, fun i hi => ?_⟩
  · exact frame_getElem?_pidInfo (j := 0) hn (by rw [hpid]; rfl)
  · rw [show 15 + n + i = 14 + n + (i + 1) by omega]
    exact frame_getElem?_pidInfo hn (by rw [hpid, List.getElem?_cons_succ, infoField_getElem? hl hi])

theorem infoFrame_layout {payload : List Byte} (r : Regs) (hl : payload.length ≤ 255) :
    (withFcs (frameBody .info payload r)).length = 274 ∧
      (withFcs (frameBody .info payload r))[14]? = some (r.vs ++ 0#1) ∧
      (withFcs (frameBody .info payload r))[15]? = some (r.vr ++ BitVec.ofBool (r.txctl.getLsbD 3)) ∧
      (withFcs (frameBody .info payload r))[16]? = some 0xF0 ∧
      ∀ i, i < 255 → (withFcs (frameBody .info payload r))[17 + i]? = some (payload.getD i 0) := by
  have hc := controlField_info (pfField r.txctl) r.vs r.vr
  obtain ⟨hlen, hpid, hinfo⟩ := frame_of_carriesInfo (r := r) rfl hl (congrArg List.length hc)
  exact ⟨hlen, frame_getElem?_control (j := 0) (by rw [hc]; rfl), frame_getElem?_control (j := 1) (by rw [hc]; rfl),
    hpid, hinfo⟩

theorem supFrame_layout (ss : BitVec 2) (payload : List Byte) (r : Regs) :
    (withFcs (frameBody (.sup ss) payload r)).length = 18 ∧
      (withFcs (frameBody (.sup ss) payload r))[14]? = some (0x0#4 ++ ss ++ 0x1#2) ∧
      (withFcs (frameBody (.sup ss) payload r))[15]? = some (r.vr ++ BitVec.ofBool (r.txctl.getLsbD 3)) := by
  have hc := controlField_sup ss (pfField r.txctl) r.vs r.vr
  exact ⟨by rw [frame_length, hc]; rfl, frame_getElem?_control (j := 0) (by rw [hc]; rfl),
    frame_getElem?_control (j := 1) (by rw [hc]; rfl)⟩

theorem uiFrame_layout {payload : List Byte} (r : Regs) (hl : payload.length ≤ 255) :
    (withFcs (frameBody .ui payload r)).length = 273 ∧
      (withFcs (frameBody .ui payload r))[14]? = some (0x0#3 ++ BitVec.ofBool (r.txctl.getLsbD 3) ++ 0x3#4) ∧
      (withFcs (frameBody .ui payload r))[15]? = some 0xF0 ∧
      ∀ i, i < 255 → (withFcs (frameBody .ui payload r))[16 + i]? = some (payload.getD i 0) := by
  have hc := controlField_ui (pfField r.txctl) r.vs r.vr
  obtain ⟨hlen, hpid, hinfo⟩ := frame_of_carriesInfo (r := r) rfl hl (congrArg List.length hc)
  exact ⟨hlen, frame_getElem?_control (j := 0) (by rw [hc]; rfl), hpid, hinfo⟩

/-- Settles O35: the address field, the fields of each frame type after it, and the FCS field at the end. -/
theorem asmFrameLayout : Obligations.AsmFrameLayout := by
  rintro r ft payload _ hl rfl
  refine ⟨fun i hi => frame_getElem?_address ft payload r hi, ?_, ?_, ?_, ?_⟩
  · rintro rfl; exact infoFrame_layout r hl
  · rintro ss rfl; exact supFrame_layout ss payload r
  · rintro rfl; exact uiFrame_layout r hl
  · rw [withFcs_take]; exact withFcs_last_two _

end Sys2Proof.Machine

/-! # What ASM depends on (O38) -/
namespace Sys2Proof.Machine

/-! ### Buffer reads of two memories that agree on the bytes read (R91) -/

theorem State.holds_congr {s t : State} {b : Buf} {i : Nat} {vs : List Byte}
    (h : ∀ k < vs.length, t.mem.read (b.address (i + k)) = s.mem.read (b.address (i + k))) (hs : s.holds b i vs) :
    t.holds b i vs := fun k hk => (h k hk).trans (hs k hk)

theorem State.firstUnwritten_congr {s t : State} {b : Buf} {n k : Nat}
    (h : ∀ j < n, t.mem.read (b.address j) = s.mem.read (b.address j)) (hs : s.firstUnwritten b 0 n k) :
    t.firstUnwritten b 0 n k := by
  obtain ⟨hle, hlt, hnone, hbelow⟩ := hs
  exact ⟨hle, hlt, (h k (by omega)).trans hnone, fun j hj hjk => by rw [h j (by omega)]; exact hbelow j hj hjk⟩

/-! ### ASM by what its checks answer (R220, R228) -/

theorem execAsm_of_no_type {s : State} (h : frameType (ftypeField s.regs.txctl) = none) :
    execAsm s = .next (s.completed .ftype) := by
  unfold execAsm
  rw [h]
  rfl

theorem execAsm_of_check {s : State} {ft : FrameType} {c : Completion} (h : frameType (ftypeField s.regs.txctl) = some ft)
    (hc : asmCheck ft s.regs = some c) : execAsm s = .next (s.completed c) := by
  simp only [execAsm, h, hc]
  rfl

theorem execAsm_of_checked {s : State} {ft : FrameType} (h : frameType (ftypeField s.regs.txctl) = some ft)
    (hc : asmCheck ft s.regs = none) : execAsm s =
      withBytes .info 0 (payloadLen ft s.regs) s fun payload => finish .ok (s.assembled ft payload) := by
  simp only [execAsm, h, hc]

/-- R220: a check that fails ends ASM with a RESULT that is not 0. -/
theorem asmCheck_byte_ne_zero {ft : FrameType} {r : Regs} {c : Completion} (h : asmCheck ft r = some c) : c.byte ≠ 0x00 := by
  unfold asmCheck at h
  split_ifs at h <;> cases h <;> decide

/-! ### The frame ASM leaves in LOG and RAW (R226) -/

theorem toNat_ofNat_le (n : Nat) : (BitVec.ofNat 16 n).toNat ≤ n := by
  rw [BitVec.toNat_ofNat]
  exact Nat.mod_le _ _

theorem assembled_read_log {s : State} {ft : FrameType} {payload frame : List Byte} (hl : payload.length ≤ 255)
    (hframe : frame = withFcs (frameBody ft payload s.regs)) {k : Nat} (hk : k < (s.assembled ft payload).regs.logLen.toNat) :
    (s.assembled ft payload).mem.read (0x400 + k) = frame[k]? := by
  subst hframe
  have hraw := rawFrame_length_le (withFcs_frameBody_length_le ft s.regs hl)
  have hk' := Nat.lt_of_lt_of_le hk (toNat_ofNat_le _)
  refine ((State.bufWrite_keepsOutside _ .raw 0 _) (0x400 + k) (.inr ?_)).trans ?_
  · simp only [Buf.address, Buf.base]; omega
  · exact Memory.read_write_inside s.mem 0x400 _ k hk'

theorem assembled_read_raw {s : State} {ft : FrameType} {payload frame : List Byte}
    (hframe : frame = withFcs (frameBody ft payload s.regs)) {k : Nat} (hk : k < (s.assembled ft payload).regs.rawLen.toNat) :
    (s.assembled ft payload).mem.read (0x200 + k) = (rawFrame frame)[k]? := by
  subst hframe
  exact Memory.read_write_inside _ 0x200 _ k (Nat.lt_of_lt_of_le hk (toNat_ofNat_le _))

/-! ### Two states that agree on ASM's operands (R114) -/

/-- The next states of two ASM runs agree: on RESULT and VS, and after an ASM that assembled a frame on every register
it writes and on the frame in LOG and RAW. -/
structure AsmEffectsAgree (s' t' : State) : Prop where
  result : t'.regs.result = s'.regs.result
  vs : t'.regs.vs = s'.regs.vs
  frame : s'.regs.result = 0x00 → t'.regs.addr = s'.regs.addr ∧ t'.regs.fcs = s'.regs.fcs ∧
    t'.regs.logLen = s'.regs.logLen ∧ t'.regs.rawLen = s'.regs.rawLen ∧ t'.regs.rawBits = s'.regs.rawBits ∧
    (∀ k, k < s'.regs.logLen.toNat → t'.mem.read (0x400 + k) = s'.mem.read (0x400 + k)) ∧
    (∀ k, k < s'.regs.rawLen.toNat → t'.mem.read (0x200 + k) = s'.mem.read (0x200 + k))

section
variable {s t : State} (h : SameAsmOperands s t)
include h

theorem SameAsmOperands.frameType_eq : frameType (ftypeField t.regs.txctl) = frameType (ftypeField s.regs.txctl) := by
  rw [h.txctl]

theorem SameAsmOperands.payloadLen_eq {ft : FrameType} (hft : frameType (ftypeField s.regs.txctl) = some ft) :
    payloadLen ft t.regs = payloadLen ft s.regs := by
  unfold payloadLen
  split
  · next hc => rw [h.infoLen ⟨ft, hft, hc⟩]
  · rfl

theorem SameAsmOperands.asmCheck_eq {ft : FrameType} (hft : frameType (ftypeField s.regs.txctl) = some ft) :
    asmCheck ft t.regs = asmCheck ft s.regs := by
  unfold asmCheck
  rw [h.payloadLen_eq hft, h.txctl, h.txAlen, h.txDest, h.txSrc]

/-- R223: the INFO bytes that ASM reads. -/
theorem SameAsmOperands.info_eq {ft : FrameType} (hft : frameType (ftypeField s.regs.txctl) = some ft)
    (hle : payloadLen ft s.regs ≤ 255) {k : Nat} (hk : k < payloadLen ft s.regs) :
    t.mem.read (Buf.info.address k) = s.mem.read (Buf.info.address k) := by
  have hlt : k < 255 := Nat.lt_of_lt_of_le hk hle
  unfold payloadLen at hk
  split at hk
  · next hc => exact (h.info ⟨ft, hft, hc⟩ k hk hlt).symm
  · exact absurd hk (Nat.not_lt_zero k)

theorem SameAsmOperands.frameBody_eq (ft : FrameType) (payload : List Byte) :
    frameBody ft payload t.regs = frameBody ft payload s.regs := by
  unfold frameBody
  rw [h.txDest, h.txSrc, h.txctl, h.vs, h.vr]

theorem SameAsmOperands.completed_agree {c : Completion} (hc : c.byte ≠ 0x00) :
    AsmEffectsAgree (s.completed c) (t.completed c) :=
  ⟨rfl, h.vs.symm, fun h0 => absurd h0 hc⟩

theorem SameAsmOperands.assembled_agree (ft : FrameType) {payload : List Byte} (hl : payload.length ≤ 255) :
    AsmEffectsAgree ((s.assembled ft payload).completed .ok) ((t.assembled ft payload).completed .ok) := by
  have hframe := congrArg withFcs (h.frameBody_eq ft payload)
  have hlog : (t.assembled ft payload).regs.logLen = (s.assembled ft payload).regs.logLen :=
    congrArg (fun f : List Byte => BitVec.ofNat 16 f.length) hframe
  have hraw : (t.assembled ft payload).regs.rawLen = (s.assembled ft payload).regs.rawLen :=
    congrArg (fun f : List Byte => BitVec.ofNat 16 (rawFrame f).length) hframe
  refine ⟨rfl, congrArg (vsAfter ft) h.vs.symm, fun _ => ⟨?_, ?_, hlog, hraw, ?_, fun k hk => ?_, fun k hk => ?_⟩⟩
  · exact congrArg₂ (fun d r => addrRegs (encAddr d r)) h.txDest.symm h.txSrc.symm
  · exact congrArg fcsCompute (h.frameBody_eq ft payload)
  · exact congrArg (fun f : List Byte => BitVec.ofNat 16 (stuffedBits f).length) hframe
  · exact (assembled_read_log hl hframe.symm (hlog ▸ hk)).trans (assembled_read_log hl rfl hk).symm
  · exact (assembled_read_raw hframe.symm (hraw ▸ hk)).trans (assembled_read_raw rfl hk).symm

/-- R114, R228: the two runs of ASM end alike. -/
theorem SameAsmOperands.execAsm_agree :
    (∃ f, execAsm s = .fault f ∧ execAsm t = .fault f) ∨
    ∃ s' t', execAsm s = .next s' ∧ execAsm t = .next t' ∧ AsmEffectsAgree s' t' := by
  rcases execAsm_cases s with ⟨hft, he⟩ | ⟨ft, c, hft, hc, he⟩ | ⟨ft, hft, hc, hread⟩
  · have ht := execAsm_of_no_type (h.frameType_eq.trans hft)
    exact .inr ⟨_, _, he, ht, h.completed_agree (by decide)⟩
  · have ht := execAsm_of_check (h.frameType_eq.trans hft) ((h.asmCheck_eq hft).trans hc)
    exact .inr ⟨_, _, he, ht, h.completed_agree (asmCheck_byte_ne_zero hc)⟩
  · have ht := execAsm_of_checked (h.frameType_eq.trans hft) ((h.asmCheck_eq hft).trans hc)
    rw [h.payloadLen_eq hft] at ht
    obtain ⟨-, -, -, -, hle⟩ := asmCheck_none.mp hc
    have hinfo := fun k hk => h.info_eq hft hle (k := k) hk
    rcases hread with ⟨payload, hl, hs, he⟩ | ⟨k, hs, he⟩
    · have hs' : t.holds .info 0 payload := State.holds_congr (fun k hk => by rw [Nat.zero_add]; exact hinfo k (hl ▸ hk)) hs
      rw [withBytes_of_holds hl hs'] at ht
      exact .inr ⟨_, _, he, ht, h.assembled_agree ft (hl ▸ hle)⟩
    · rw [withBytes_of_unwritten (State.firstUnwritten_congr hinfo hs)] at ht
      exact .inl ⟨_, he, ht⟩

end

/-- Settles O38: two states that agree on ASM's operands pass the same checks, read the same INFO bytes and so
assemble the same frame. -/
theorem asmDependsOnlyOnItsOperands : Obligations.AsmDependsOnlyOnItsOperands := by
  intro s t h
  rcases h.execAsm_agree with ⟨f, hs, ht⟩ | ⟨s', t', hs, ht, hagree⟩
  · refine ⟨fun g hg => ?_, fun u hu => ?_⟩
    · cases hs.symm.trans hg
      exact ht
    · cases hs.symm.trans hu
  · refine ⟨fun g hg => ?_, fun u hu => ?_⟩
    · cases hs.symm.trans hg
    · cases hs.symm.trans hu
      exact ⟨t', ht, hagree.result, hagree.vs, hagree.frame⟩

end Sys2Proof.Machine


/-! # The bit channel primitives (O19, O18, O20) -/
namespace Sys2Proof.Machine

/-! ### Destuffing what was stuffed (R152 (2), (3)) -/

theorem destuffFrom_replicate_false {run : Nat} (h : run ≠ 5) (p : Nat) :
    destuffFrom run (List.replicate p false) = List.replicate p false := by
  induction p generalizing run with
  | zero => exact destuffFrom_nil run
  | succ p ih => rw [List.replicate_succ, destuffFrom_zero, if_neg h, ih (by decide)]

/-- From any point of a run, the two counters agreeing: both stay below 5, since after the fifth one-bit the stuffed zero
resets both. -/
theorem destuffFrom_stuffFrom_append {run : Nat} (h : run < 5) (q : List Bool) (p : Nat) :
    destuffFrom run (stuffFrom run q ++ List.replicate p false) = q ++ List.replicate p false := by
  induction q generalizing run with
  | nil => rw [stuffFrom_nil, List.nil_append, destuffFrom_replicate_false (by omega)]
  | cons b q ih =>
    cases b with
    | false => rw [stuffFrom_zero, List.cons_append, destuffFrom_zero, if_neg (by omega), ih (by decide), List.cons_append]
    | true =>
      rw [stuffFrom_one]
      by_cases h5 : run + 1 = 5
      · rw [if_pos h5, List.cons_append, List.cons_append, destuffFrom_one, h5, show min 5 6 = 5 from rfl,
          destuffFrom_zero, if_pos rfl, ih (by decide), List.cons_append]
      · rw [if_neg h5, List.cons_append, destuffFrom_one, Nat.min_eq_left (by omega), ih (by omega), List.cons_append]

/-- Settles O19: by induction on the sequence, from any run count below 5. -/
theorem destuffInvertsStuffWithPadding : Obligations.DestuffInvertsStuffWithPadding :=
  destuffFrom_stuffFrom_append (by decide)

/-! ### Runs of one-bits (R152 (1)) -/

theorem not_replicate_true_prefix_append_zero {m n : Nat} (h : n < m) (q : List Bool) :
    ¬ List.replicate m true <+: List.replicate n true ++ false :: q := by
  rintro ⟨rest, hrest⟩
  have hn : (List.replicate m true ++ rest)[n]? = some false := by rw [hrest]; simp
  rw [List.getElem?_append_left (by rwa [List.length_replicate]), List.getElem?_replicate_of_lt h] at hn
  cases hn

/-- A run of `n` one-bits that a zero ends is too short to hold `m`, so `m` in a row stand after it. -/
theorem replicate_true_infix_of_append_zero {m n : Nat} (h : n < m) {q : List Bool}
    (hm : List.replicate m true <:+: List.replicate n true ++ false :: q) : List.replicate m true <:+: q := by
  induction n with
  | zero => exact (List.infix_cons_iff.mp hm).resolve_left (not_replicate_true_prefix_append_zero h q)
  | succ n ih =>
    exact ih (by omega) ((List.infix_cons_iff.mp hm).resolve_left (not_replicate_true_prefix_append_zero h q))

theorem stuffFrom_no_six_ones {run : Nat} (h : run < 5) (q : List Bool) (p : Nat) :
    ¬ List.replicate 6 true <:+: List.replicate run true ++ (stuffFrom run q ++ false :: List.replicate p false) := by
  induction q generalizing run with
  | nil =>
    intro h6
    have hz := (replicate_true_infix_of_append_zero (by omega) h6).subset (a := true) (by decide)
    exact absurd (List.eq_of_mem_replicate hz) (by decide)
  | cons b q ih =>
    cases b with
    | false => exact fun h6 => ih (run := 0) (by decide) (replicate_true_infix_of_append_zero (by omega) h6)
    | true =>
      rw [stuffFrom_one]
      by_cases h5 : run + 1 = 5
      · rw [if_pos h5, List.cons_append, List.append_cons, ← List.replicate_succ', List.cons_append]
        exact fun h6 => ih (run := 0) (by decide) (replicate_true_infix_of_append_zero (by omega) h6)
      · rw [if_neg h5, List.cons_append, List.append_cons, ← List.replicate_succ']
        exact ih (by omega)

/-- Settles O18: the flag bits beside the sequence are zeros, so no run reaches past an end of it, and inside it a zero
ends every run of five. -/
theorem stuffNeverSendsSixOnes : Obligations.StuffNeverSendsSixOnes := by
  intro q p h6
  have hpad : List.replicate p false ++ [false] = false :: List.replicate p false := by
    rw [← List.replicate_succ', List.replicate_succ]
  rw [List.append_assoc, hpad] at h6
  exact stuffFrom_no_six_ones (run := 0) (by decide) q p (replicate_true_infix_of_append_zero (n := 0) (by decide) h6)

/-! ### Lengths (R152 (4), (5)) -/

theorem length_le_stuffFrom_length (run : Nat) (q : List Bool) : q.length ≤ (stuffFrom run q).length := by
  induction q generalizing run with
  | nil => exact Nat.zero_le _
  | cons b q ih =>
    cases b with
    | false => exact Nat.succ_le_succ (ih 0)
    | true =>
      rw [stuffFrom_one]
      split
      · exact Nat.succ_le_succ (Nat.le_succ_of_le (ih 0))
      · exact Nat.succ_le_succ (ih (run + 1))

theorem destuffFrom_length_le (run : Nat) (q : List Bool) : (destuffFrom run q).length ≤ q.length := by
  induction q generalizing run with
  | nil => rw [destuffFrom_nil]
  | cons b q ih =>
    cases b with
    | true => exact Nat.succ_le_succ (ih _)
    | false =>
      rw [destuffFrom_zero]
      split
      · exact Nat.le_succ_of_le (ih 0)
      · exact Nat.succ_le_succ (ih 0)

/-- From any point of a run, every fifth one-bit pays for a stuffed zero. -/
theorem stuffFrom_replicate_true_length {run : Nat} (h : run < 5) (n : Nat) :
    (stuffFrom run (List.replicate n true)).length = n + (run + n) / 5 := by
  induction n generalizing run with
  | zero => simp; omega
  | succ n ih =>
    rw [List.replicate_succ, stuffFrom_one]
    by_cases h5 : run + 1 = 5
    · rw [if_pos h5, List.length_cons, List.length_cons, ih (by decide)]; omega
    · rw [if_neg h5, List.length_cons, ih (by omega)]; omega

/-- Settles O20: each clause by induction on the sequence, from any run count. -/
theorem stuffLengthBounds : Obligations.StuffLengthBounds := fun q =>
  ⟨length_le_stuffFrom_length 0 q, stuff_length_le q, destuffFrom_length_le 0 q, fun n => by
    rw [stuff, stuffFrom_replicate_true_length (by decide), Nat.zero_add]⟩

end Sys2Proof.Machine

/-! # STUFF and DESTUFF (O22, O23, O24) -/
namespace Sys2Proof.Machine

/-! ### A command that has completed (R312) -/

theorem State.completed_ended {s t : State} {r : Regs} (c : Completion) (hregs : t.regs = r) (hrst : t.rst = s.rst)
    (hin : t.inputs = s.inputs) (hresp : t.response = s.response) : Ended s (t.completed c) c.byte r :=
  ⟨by rw [State.completed_regs, hregs], rfl, hrst, hin, hresp⟩

/-! ### STUFF (R153) -/

theorem execStuff_of_lenRange {s : State} (h : 274 < s.regs.logLen.toNat) :
    execStuff s = .next (s.endedWith 0x21) := if_pos h

theorem execStuff_of_le {s : State} (h : s.regs.logLen.toNat ≤ 274) :
    execStuff s = withBytes .log 0 s.regs.logLen.toNat s fun bytes => finish .ok (s.stuffed bytes) :=
  if_neg (Nat.not_lt.mpr h)

theorem execStuff_of_holds {s : State} {bytes : List Byte} (hl : bytes.length = s.regs.logLen.toNat)
    (hle : s.regs.logLen.toNat ≤ 274) (hlog : s.holds .log 0 bytes) :
    execStuff s = .next ((s.stuffed bytes).completed .ok) := by
  rw [execStuff_of_le hle, withBytes_of_holds hl hlog]
  rfl

/-- 274 bytes of one-bits stuff into 2630 bits. -/
theorem stuff_bits_length_le {bytes : List Byte} (h : bytes.length ≤ 274) : (stuff (bits bytes)).length ≤ 2630 := by
  have hs := stuff_length_le (bits bytes)
  rw [bits_length] at hs
  omega

/-- Settles O22: by the length check, the bytes LOG holds, or the first one unwritten. -/
theorem stuffCommand : Obligations.StuffCommand := by
  intro s
  refine ⟨execStuff_of_lenRange, fun bytes hl hle hlog => ?_, fun k hle hk => ?_⟩
  · exact ⟨_, execStuff_of_holds hl hle hlog, State.completed_ended .ok rfl rfl rfl rfl, s.bufWrite_holds .raw _,
      s.bufWrite_keepsOutside .raw 0 _, pack_stuff_length_le (hl ▸ hle), stuff_bits_length_le (hl ▸ hle)⟩
  · exact (execStuff_of_le hle).trans (withBytes_of_unwritten hk _)

/-! ### DESTUFF (R154, R156) -/

theorem execDestuff_of_lenRange {s : State} (h : 2648 < s.regs.rawBits.toNat) :
    execDestuff s = .next (s.endedWith 0x21) := if_pos h

theorem execDestuff_of_le {s : State} (h : s.regs.rawBits.toNat ≤ 2648) :
    execDestuff s = withBytes .raw 0 (byteCount s.regs.rawBits.toNat) s fun bytes =>
      let d := destuff ((bits bytes).take s.regs.rawBits.toNat)
      finish (if 274 < d.length / 8 then .overflow else .ok) (s.logDestuffed d) :=
  if_neg (Nat.not_lt.mpr h)

theorem execDestuff_of_holds {s : State} {bytes : List Byte} {d : List Bool} (hle : s.regs.rawBits.toNat ≤ 2648)
    (hl : bytes.length = byteCount s.regs.rawBits.toNat) (hraw : s.holds .raw 0 bytes)
    (hd : d = destuff ((bits bytes).take s.regs.rawBits.toNat)) :
    execDestuff s = finish (if 274 < d.length / 8 then .overflow else .ok) (s.logDestuffed d) := by
  rw [execDestuff_of_le hle, withBytes_of_holds hl hraw, hd]

/-- R156: a store of the first `n` whole bytes of a sequence in LOG. -/
theorem State.bufWrite_bytesOf_keepsOutside (s : State) {n : Nat} {d : List Bool} (h : 8 * n ≤ d.length) :
    s.keepsOutside (s.bufWrite .log 0 (bytesOf n d)) 0x400 n := by
  have hkeep := s.bufWrite_keepsOutside .log 0 (bytesOf n d)
  rwa [bytesOf_length h] at hkeep

theorem State.logDestuffed_effect_of_fits (s : State) {d : List Bool} (h : d.length / 8 ≤ 274) :
    (s.logDestuffed d).regs = { s.regs with
      logLen := BitVec.ofNat 16 (d.length / 8), dstfTail := BitVec.ofNat 3 (d.length % 8) } ∧
    (s.logDestuffed d).holds .log 0 (pack (d.take (8 * (d.length / 8)))) ∧
    s.keepsOutside (s.logDestuffed d) 0x400 (d.length / 8) := by
  rw [s.logDestuffed_fits h]
  exact ⟨rfl, s.bufWrite_holds .log _, s.bufWrite_bytesOf_keepsOutside (Nat.mul_div_le _ _)⟩

theorem State.logDestuffed_effect_of_overflow (s : State) {d : List Bool} (h : 274 < d.length / 8) :
    (s.logDestuffed d).regs = { s.regs with logLen := 0, dstfTail := 0 } ∧
    (s.logDestuffed d).holds .log 0 (pack (d.take 2192)) ∧ s.keepsOutside (s.logDestuffed d) 0x400 274 := by
  rw [s.logDestuffed_overflow h]
  exact ⟨rfl, s.bufWrite_holds .log _, s.bufWrite_bytesOf_keepsOutside (by omega)⟩

theorem State.logDestuffed_ended (s : State) (c : Completion) (d : List Bool) :
    Ended s ((s.logDestuffed d).completed c) c.byte (s.logDestuffed d).regs :=
  State.completed_ended c rfl (s.logDestuffed_rst d) (s.logDestuffed_inputs d) (s.logDestuffed_response d)

/-- Settles O23: by the bit-count check, the bytes RAW holds and the whole bytes they destuff to, or the first byte
unwritten. -/
theorem destuffCommand : Obligations.DestuffCommand := by
  intro s
  refine ⟨execDestuff_of_lenRange, fun bytes d hle hl hraw hd => ?_, fun k hle hk => ?_⟩
  · have hrun := execDestuff_of_holds hle hl hraw hd
    refine ⟨fun hfit => ?_, fun hov => ?_⟩
    · rw [if_neg (Nat.not_lt.mpr hfit)] at hrun
      obtain ⟨hregs, hlog, hkeep⟩ := s.logDestuffed_effect_of_fits hfit
      exact ⟨_, hrun, hregs ▸ s.logDestuffed_ended .ok d, hlog, hkeep⟩
    · rw [if_pos hov] at hrun
      obtain ⟨hregs, hlog, hkeep⟩ := s.logDestuffed_effect_of_overflow hov
      exact ⟨_, hrun, hregs ▸ s.logDestuffed_ended .overflow d, hlog, hkeep⟩
  · exact (execDestuff_of_le hle).trans (withBytes_of_unwritten hk _)

/-! ### DESTUFF of what STUFF wrote (R154) -/

theorem le_eight_mul_byteCount (n : Nat) : n ≤ 8 * byteCount n := by
  unfold byteCount
  omega

/-- R86: the bits of a packed sequence are the sequence and its zero pad. -/
theorem bits_pack (q : List Bool) :
    bits (pack q) = q ++ List.replicate (8 * byteCount q.length - q.length) false := by
  have hcap := le_eight_mul_byteCount q.length
  apply List.ext_getElem?
  intro k
  by_cases hk : k < 8 * byteCount q.length
  · have hbit := bits_getElem? (s := pack q) (i := k / 8) (j := k % 8) (by rw [pack_length]; omega) (by omega)
    rw [Nat.div_add_mod, pack_getLsbD] at hbit
    rw [hbit]
    by_cases hq : k < q.length
    · rw [List.getElem?_append_left hq, List.getD_eq_getElem?_getD, List.getElem?_eq_getElem hq, Option.getD_some]
    · rw [List.getElem?_append_right (by omega), List.getElem?_replicate_of_lt (by omega),
        List.getD_eq_default _ _ (by omega)]
  · rw [List.getElem?_eq_none (by rw [bits_length, pack_length]; omega),
      List.getElem?_eq_none (by rw [List.length_append, List.length_replicate]; omega)]

theorem bits_pack_take {q : List Bool} {p : Nat} (h : q.length + p ≤ 8 * byteCount q.length) :
    (bits (pack q)).take (q.length + p) = q ++ List.replicate p false := by
  rw [bits_pack, List.take_length_add_append, List.take_replicate, Nat.min_eq_left (by omega)]

/-- R154: DESTUFF of a stuffed LOG, reading `p` of its pad bits, restores the LOG and leaves those bits over. -/
theorem execDestuff_of_stuffed {t : State} {bytes : List Byte} {p : Nat} (hl : bytes.length ≤ 274)
    (hraw : t.holds .raw 0 (pack (stuff (bits bytes))))
    (hbits : t.regs.rawBits.toNat = (stuff (bits bytes)).length + p)
    (hp : (stuff (bits bytes)).length + p ≤ 8 * byteCount (stuff (bits bytes)).length) :
    ∃ u, exec .destuff t = .next u ∧ u.regs.result = 0x00 ∧ u.regs.logLen = BitVec.ofNat 16 bytes.length ∧
      u.regs.dstfTail.toNat = p ∧ u.holds .log 0 bytes := by
  have hS := stuff_bits_length_le hl
  unfold byteCount at hp
  have hread : (pack (stuff (bits bytes))).length = (t.regs.rawBits.toNat + 7) / 8 := by
    rw [pack_length, hbits, byteCount]; omega
  have hd : bits bytes ++ List.replicate p false =
      destuff ((bits (pack (stuff (bits bytes)))).take t.regs.rawBits.toNat) := by
    rw [hbits, bits_pack_take hp, destuffInvertsStuffWithPadding]
  have hlen : (bits bytes ++ List.replicate p false).length = 8 * bytes.length + p := by
    rw [List.length_append, bits_length, List.length_replicate]
  have hwhole : (8 * bytes.length + p) / 8 = bytes.length := by omega
  have htail : (8 * bytes.length + p) % 8 = p := by omega
  have hlog : (bits bytes ++ List.replicate p false).take (8 * bytes.length) = bits bytes :=
    List.take_left' (bits_length bytes)
  obtain ⟨-, hrun, -⟩ := destuffCommand t
  obtain ⟨hfits, -⟩ := hrun _ _ (by omega) hread hraw hd
  rw [hlen, hwhole, htail, hlog, pack_bits] at hfits
  obtain ⟨u, hu, hended, hholds, -⟩ := hfits hl
  refine ⟨u, hu, by rw [hended.regs], by rw [hended.regs], ?_, hholds⟩
  rw [hended.regs]
  exact Nat.mod_eq_of_lt (by omega)

theorem State.stuffed_rawBits_toNat (s : State) {bytes : List Byte} (hl : bytes.length ≤ 274) :
    (s.stuffed bytes).regs.rawBits.toNat = (stuff (bits bytes)).length := by
  have hS := stuff_bits_length_le hl
  exact Nat.mod_eq_of_lt (by omega)

theorem State.stuffed_rawLen_toNat (s : State) {bytes : List Byte} (hl : bytes.length ≤ 274) :
    (s.stuffed bytes).regs.rawLen.toNat = byteCount (stuff (bits bytes)).length := by
  have hP := pack_stuff_length_le hl
  rw [← pack_length]
  exact Nat.mod_eq_of_lt (by omega)

/-- 8·RAW_LEN of a stuffed LOG does not wrap. -/
theorem State.stuffed_eight_mul_rawLen_toNat (s : State) {bytes : List Byte} (hl : bytes.length ≤ 274) :
    (8 * (s.stuffed bytes).regs.rawLen).toNat = 8 * byteCount (stuff (bits bytes)).length := by
  have hP := pack_stuff_length_le hl
  rw [pack_length] at hP
  rw [BitVec.toNat_mul, s.stuffed_rawLen_toNat hl]
  exact Nat.mod_eq_of_lt (show 8 * byteCount _ < 65536 by omega)

/-- Settles O24: STUFF leaves the stuffed bits of LOG in RAW, and destuffing them restores LOG with no bit over, or with
the pad bits over. -/
theorem stuffThenDestuffRestoresLog : Obligations.StuffThenDestuffRestoresLog := by
  intro s t bytes hl hle hlog ht
  cases (execStuff_of_holds hl hle hlog).symm.trans ht
  have hl' : bytes.length ≤ 274 := hl ▸ hle
  have hraw : ((s.stuffed bytes).completed .ok).holds .raw 0 (pack (stuff (bits bytes))) := s.bufWrite_holds .raw _
  have hlogLen : BitVec.ofNat 16 bytes.length = s.regs.logLen := by rw [hl, BitVec.ofNat_toNat, BitVec.setWidth_eq]
  have hcap : (stuff (bits bytes)).length ≤ 8 * byteCount (stuff (bits bytes)).length := le_eight_mul_byteCount _
  rw [← hlogLen]
  constructor
  · obtain ⟨u, hu, hres, hlen, htail, hlog'⟩ :=
      execDestuff_of_stuffed (p := 0) hl' hraw (s.stuffed_rawBits_toNat hl') hcap
    exact ⟨u, hu, hres, hlen, BitVec.eq_of_toNat_eq htail, hlog'⟩
  · obtain ⟨p, hp⟩ := Nat.exists_eq_add_of_le hcap
    have hpad : 8 * ((s.stuffed bytes).completed .ok).regs.rawLen.toNat -
        ((s.stuffed bytes).completed .ok).regs.rawBits.toNat = p := by
      rw [State.completed_regs, s.stuffed_rawLen_toNat hl', s.stuffed_rawBits_toNat hl', hp, Nat.add_sub_cancel_left]
    rw [hpad]
    exact execDestuff_of_stuffed hl' hraw ((s.stuffed_eight_mul_rawLen_toNat hl').trans hp) hp.ge

end Sys2Proof.Machine

/-! # FCSGEN and FCSCHK (O25, O26, O27) -/
namespace Sys2Proof.Machine

/-! ### FCSGEN (R185) -/

theorem execFcsgen_of_lenRange {s : State} (h : 274 < s.regs.logLen.toNat) :
    execFcsgen s = .next (s.endedWith 0x21) := if_pos h

theorem execFcsgen_of_le {s : State} (h : s.regs.logLen.toNat ≤ 274) :
    execFcsgen s = withBytes .log 0 s.regs.logLen.toNat s fun bytes =>
      finish .ok { s with regs := { s.regs with fcs := fcsCompute bytes, fcsCalc := fcsCompute bytes } } :=
  if_neg (Nat.not_lt.mpr h)

/-- Settles O25: by the length check, the bytes LOG holds, or the first one unwritten. -/
theorem fcsGenerateCommand : Obligations.FcsGenerateCommand := by
  intro s
  refine ⟨execFcsgen_of_lenRange, fun bytes hl hle hlog => ?_, fun k hle hk => ?_⟩
  · exact (execFcsgen_of_le hle).trans (withBytes_of_holds hl hlog _)
  · exact (execFcsgen_of_le hle).trans (withBytes_of_unwritten hk _)

/-! ### FCSCHK (R186) -/

theorem fcsVerify_iff {s : List Byte} {f : Half} : fcsVerify s f = true ↔ f = fcsCompute s := beq_iff_eq

theorem execFcschk_of_lenRange {s : State} (h : 274 < s.regs.logLen.toNat) :
    execFcschk s = .next (s.endedWith 0x21) := if_pos h

theorem execFcschk_of_le {s : State} (h : s.regs.logLen.toNat ≤ 274) :
    execFcschk s = withBytes .log 0 s.regs.logLen.toNat s fun bytes =>
      finish (if fcsVerify bytes s.regs.fcs then .ok else .integrityError)
        { s with regs := { s.regs with fcsCalc := fcsCompute bytes } } :=
  if_neg (Nat.not_lt.mpr h)

/-- The RESULT byte of the check: OK or IntegrityError. -/
theorem fcsVerify_completion_byte (bytes : List Byte) (f : Half) :
    (if fcsVerify bytes f then Completion.ok else .integrityError).byte = if f = fcsCompute bytes then 0x00 else 0x03 := by
  by_cases h : f = fcsCompute bytes
  · rw [if_pos (fcsVerify_iff.mpr h), if_pos h]; rfl
  · rw [if_neg (mt fcsVerify_iff.mp h), if_neg h]; rfl

/-- Settles O26: by the length check, the bytes LOG holds with both results of the comparison, or the first byte
unwritten. -/
theorem fcsCheckCommand : Obligations.FcsCheckCommand := by
  intro s
  refine ⟨execFcschk_of_lenRange, fun bytes hl hle hlog => ?_, fun k hle hk => ?_⟩
  · rw [show exec .fcschk s = execFcschk s from rfl, execFcschk_of_le hle, withBytes_of_holds hl hlog, finish,
      State.completed, fcsVerify_completion_byte]
    rfl
  · exact (execFcschk_of_le hle).trans (withBytes_of_unwritten hk _)

/-! ### The CRC on the spec's vectors (R180, R181) -/

/-- Settles O27: V30-V33 of 95_test_vectors.md, by running the CRC on them. -/
theorem crcKnownValues : Obligations.CrcKnownValues := by
  unfold Obligations.CrcKnownValues
  decide +kernel

end Sys2Proof.Machine

/-! # The errors the FCS detects (O29, O28)

The CRC of a string is a run over its bits. A step is linear and invertible, so two runs that have parted stay apart while
they take in the same bits; and a run over at most sixteen bits is the same as taking them in as one word and then making
that many steps, so two different such spans make two runs part. -/
namespace Sys2Proof.Machine

/-! ### One reduction step (R180) -/

theorem crcStep_xor (x y : Half) : crcStep (x ^^^ y) = crcStep x ^^^ crcStep y := by
  have hshift : (x ^^^ y) >>> 1 = x >>> 1 ^^^ y >>> 1 := BitVec.ushiftRight_xor_distrib x y 1
  unfold crcStep
  rw [BitVec.getLsbD_xor, hshift]
  generalize (0x8408 : Half) = c
  cases x.getLsbD 0 <;> cases y.getLsbD 0
  · rfl
  · show x >>> 1 ^^^ y >>> 1 ^^^ c = x >>> 1 ^^^ (y >>> 1 ^^^ c)
    ac_rfl
  · show x >>> 1 ^^^ y >>> 1 ^^^ c = x >>> 1 ^^^ c ^^^ y >>> 1
    ac_rfl
  · show x >>> 1 ^^^ y >>> 1 = x >>> 1 ^^^ c ^^^ (y >>> 1 ^^^ c)
    have hcancel : c ^^^ c = 0 := BitVec.xor_self
    rw [show x >>> 1 ^^^ c ^^^ (y >>> 1 ^^^ c) = x >>> 1 ^^^ y >>> 1 ^^^ (c ^^^ c) by ac_rfl, hcancel]
    exact BitVec.xor_zero.symm

/-- Bit 15 of a step's result is bit 0 of its operand, so the step loses nothing. -/
theorem eq_zero_of_crcStep_eq_zero {x : Half} (h : crcStep x = 0) : x = 0 := by
  unfold crcStep at h
  cases hlow : x.getLsbD 0 with
  | true =>
    rw [hlow, if_pos rfl] at h
    have htop := congrArg (BitVec.getLsbD · 15) h
    simp at htop
  | false =>
    rw [hlow, if_neg Bool.false_ne_true] at h
    apply BitVec.eq_of_getLsbD_eq
    intro j hj
    cases j with
    | zero => exact hlow
    | succ j =>
      have hbit := congrArg (BitVec.getLsbD · j) h
      simpa [Nat.add_comm] using hbit

theorem crcStep_injective : Function.Injective crcStep := fun x y h =>
  BitVec.xor_eq_zero_iff.mp (eq_zero_of_crcStep_eq_zero (by rw [crcStep_xor, h, BitVec.xor_self]; rfl))

theorem crcSteps_injective (n : Nat) : Function.Injective (crcSteps n) := by
  induction n with
  | zero => exact fun _ _ h => h
  | succ n ih => exact ih.comp crcStep_injective

/-- A word whose bit 0 is 0 is only shifted. -/
theorem crcStep_shiftLeft {w : Half} (h : w.getLsbD 15 = false) : crcStep (w <<< 1) = w := by
  rw [crcStep, if_neg (by simp)]
  apply BitVec.eq_of_getLsbD_eq
  intro j hj
  rw [BitVec.getLsbD_ushiftRight, BitVec.getLsbD_shiftLeft]
  by_cases hj' : j = 15
  · rw [hj', h]; rfl
  · simp [show 1 + j < 16 by omega]

/-! ### The CRC bit by bit -/

/-- These bits as a word, the first at bit 0. -/
def bitsWord (q : List Bool) : Half := BitVec.ofNat 16 (bitsToNat q)

theorem bitsWord_getLsbD (q : List Bool) {k : Nat} (hk : k < 16) : (bitsWord q).getLsbD k = q.getD k false := by
  rw [bitsWord, BitVec.getLsbD_ofNat, bitsToNat_testBit, decide_eq_true hk, Bool.true_and]

theorem bitsWord_injective {p q : List Bool} (hl : p.length = q.length) (hq : q.length ≤ 16)
    (h : bitsWord p = bitsWord q) : p = q :=
  List.ext_getElem hl fun k hkp hkq => by
    have hk := congrArg (BitVec.getLsbD · k) h
    simpa [bitsWord_getLsbD _ (show k < 16 by omega), hkp, hkq] using hk

theorem bitsWord_byteBits (b : Byte) : bitsWord (byteBits b) = b.setWidth 16 := by
  apply BitVec.eq_of_getLsbD_eq
  intro j hj
  rw [bitsWord_getLsbD _ hj, BitVec.getLsbD_setWidth, decide_eq_true hj, Bool.true_and, List.getD_eq_getElem?_getD]
  by_cases h8 : j < 8
  · rw [byteBits_getElem? b h8, Option.getD_some]
  · rw [List.getElem?_eq_none (Nat.le_of_not_lt h8), BitVec.getLsbD_of_ge _ _ (Nat.le_of_not_lt h8), Option.getD_none]

/-- The accumulator after one bit, which enters at bit 0. -/
def crcBit (r : Half) (b : Bool) : Half := crcStep (r ^^^ bitsWord [b])

theorem bitsWord_cons (b : Bool) (q : List Bool) : bitsWord (b :: q) = bitsWord [b] ^^^ bitsWord q <<< 1 := by
  apply BitVec.eq_of_getLsbD_eq
  intro j hj
  rw [BitVec.getLsbD_xor, BitVec.getLsbD_shiftLeft, bitsWord_getLsbD _ hj, bitsWord_getLsbD _ hj, decide_eq_true hj]
  cases j with
  | zero => simp
  | succ j => simp [bitsWord_getLsbD q (show j < 16 by omega)]

theorem crcBits_eq_crcSteps (r : Half) {q : List Bool} (h : q.length ≤ 16) :
    q.foldl crcBit r = crcSteps q.length (r ^^^ bitsWord q) := by
  induction q generalizing r with
  | nil => exact (BitVec.xor_zero (x := r)).symm
  | cons b q ih =>
    have hq : q.length ≤ 15 := Nat.le_of_succ_le_succ h
    have htop : (bitsWord q).getLsbD 15 = false := by
      rw [bitsWord_getLsbD q (by decide), List.getD_eq_default _ _ hq]
    rw [List.foldl_cons, ih _ (by omega), List.length_cons, crcSteps, bitsWord_cons, ← BitVec.xor_assoc, crcStep_xor,
      crcStep_shiftLeft htop]
    rfl

theorem crcByte_eq_crcBits (r : Half) (b : Byte) : crcByte r b = (byteBits b).foldl crcBit r := by
  rw [crcBits_eq_crcSteps r (show (byteBits b).length ≤ 16 by rw [byteBits_length]; decide), bitsWord_byteBits]
  rfl

theorem crcBytes_eq_crcBits (r : Half) (s : List Byte) : s.foldl crcByte r = (bits s).foldl crcBit r := by
  rw [bits, List.foldl_flatMap]
  exact congrArg (List.foldl · r s) (funext₂ crcByte_eq_crcBits)

/-! ### Where two runs part, and that they stay apart -/

theorem crcBit_injective (b : Bool) : Function.Injective (crcBit · b) := fun _ _ h =>
  (BitVec.xor_left_inj _).mp (crcStep_injective h)

theorem crcBits_injective (q : List Bool) : Function.Injective (q.foldl crcBit) := by
  induction q with
  | nil => exact fun _ _ h => h
  | cons b q ih => exact ih.comp (crcBit_injective b)

theorem eq_of_crcBits_eq {r : Half} {p q : List Bool} (hl : p.length = q.length) (hq : q.length ≤ 16)
    (h : p.foldl crcBit r = q.foldl crcBit r) : p = q := by
  rw [crcBits_eq_crcSteps r (hl ▸ hq), crcBits_eq_crcSteps r hq, hl] at h
  exact bitsWord_injective hl hq ((BitVec.xor_right_inj r).mp (crcSteps_injective _ h))

/-- Two spans of the same length, of at most sixteen bits, between the same bits. -/
theorem eq_of_crcBits_append_eq {r : Half} {p m m' t : List Bool} (hl : m'.length = m.length) (hm : m.length ≤ 16)
    (h : (p ++ m' ++ t).foldl crcBit r = (p ++ m ++ t).foldl crcBit r) : m' = m := by
  simp only [List.foldl_append] at h
  exact eq_of_crcBits_eq hl hm (crcBits_injective _ h)

theorem bits_injective : Function.Injective bits := Function.LeftInverse.injective pack_bits

/-- R181: the final complement and the bit reversal lose nothing. -/
theorem crcBits_eq_of_fcsCompute_eq {s s' : List Byte} (h : fcsCompute s = fcsCompute s') :
    (bits s).foldl crcBit 0xFFFF = (bits s').foldl crcBit 0xFFFF := by
  have hcrc := congrArg BitVec.reverse h
  rw [fcsCompute, fcsCompute, rev16, rev16, BitVec.reverse_reverse_eq, BitVec.reverse_reverse_eq, crcX25, crcX25,
    BitVec.xor_left_inj, crcBytes_eq_crcBits, crcBytes_eq_crcBits] at hcrc
  exact hcrc

theorem eq_take_append_span_append_drop (q : List Bool) (k n : Nat) :
    q = q.take k ++ (q.drop k).take n ++ q.drop (k + n) := by
  rw [List.append_assoc, ← List.drop_drop, List.take_append_drop, List.take_append_drop]

/-- Two strings of the same bits outside a span of at most sixteen, and of the same FCS. -/
theorem eq_of_fcsCompute_eq {s s' : List Byte} {k : Nat} (hlen : s'.length = s.length)
    (hout : ∀ j, j < k ∨ k + 16 ≤ j → (bits s')[j]? = (bits s)[j]?) (h : fcsCompute s' = fcsCompute s) : s' = s := by
  have hpre : (bits s').take k = (bits s).take k := List.ext_getElem? fun j => by
    rw [List.getElem?_take, List.getElem?_take]
    split
    · exact hout j (.inl ‹_›)
    · rfl
  have hpost : (bits s').drop (k + 16) = (bits s).drop (k + 16) := List.ext_getElem? fun j => by
    rw [List.getElem?_drop, List.getElem?_drop, hout _ (.inr (Nat.le_add_right _ _))]
  have hspan : (((bits s').drop k).take 16).length = (((bits s).drop k).take 16).length := by
    simp only [List.length_take, List.length_drop, bits_length, hlen]
  have hcrc := crcBits_eq_of_fcsCompute_eq h
  rw [eq_take_append_span_append_drop (bits s') k 16, eq_take_append_span_append_drop (bits s) k 16, hpre, hpost] at hcrc
  have hmid := eq_of_crcBits_append_eq hspan (List.length_take_le _ _) hcrc
  apply bits_injective
  rw [eq_take_append_span_append_drop (bits s') k 16, hpre, hmid, hpost, ← eq_take_append_span_append_drop]

/-- Settles O29: a string with the FCS of the first is the first. -/
theorem fcsDetectsBurstError : Obligations.FcsDetectsBurstError := by
  intro s s' k hlen hne hout
  rw [Bool.eq_false_iff, ne_eq, fcsVerify_iff]
  exact fun h => hne (eq_of_fcsCompute_eq hlen hout h.symm)

/-- Settles O28: a single changed bit is a burst of one bit. -/
theorem fcsDetectsSingleBitError : Obligations.FcsDetectsSingleBitError := by
  refine ⟨fun s => fcsVerify_iff.mpr rfl, fun s s' k hlen _ hout hk => ?_⟩
  refine fcsDetectsBurstError s s' k hlen ?_ fun j hj => hout j (by omega)
  rintro rfl
  exact hk rfl

end Sys2Proof.Machine

/-! # The address codec (O30, O31, O32)

An encoded sub-field is given byte by byte; a decoded one by `Decoded.Reads`, which fixes it. Decoding inverts encoding
where the bytes of the first read as the second says. -/
namespace Sys2Proof.Machine

/-! ### The encoded sub-field (R200, R201) -/

theorem encChar_eq (t : Station) (i : Fin 6) :
    encChar t i = (if i.val < t.len.toNat then t.call[i] else 0x20) <<< 1 := by
  rw [encChar, Vector.getElem?_eq_getElem i.isLt, Option.getD_some]
  rfl

theorem encSub_getD (t : Station) (ext : Bool) (i : Fin 6) :
    (encSub t ext).getD i 0 = (if i.val < t.len.toNat then t.call[i] else 0x20) <<< 1 := by
  rw [← encChar_eq]
  fin_cases i <;> rfl

theorem encSub_getD_six (t : Station) (ext : Bool) : (encSub t ext).getD 6 0 = encSsid t.ssid ext := rfl

theorem encSub_length (t : Station) (ext : Bool) : (encSub t ext).length = 7 := rfl

theorem encSsid_false (ssid : Byte) : encSsid ssid false = ssid &&& 0xFE := BitVec.or_zero

theorem encSsid_true (ssid : Byte) : encSsid ssid true = (ssid &&& 0xFE) ||| 1 := rfl

/-! ### AENC (R202, R203) -/

theorem encAddr_getD_dest (dest src : Station) {i : Nat} (h : i < 7) :
    (encAddr dest src).getD i 0 = (encSub dest false).getD i 0 :=
  List.getD_append _ _ _ _ h

theorem encAddr_getD_src (dest src : Station) (i : Nat) :
    (encAddr dest src).getD (7 + i) 0 = (encSub src true).getD i 0 := by
  rw [encAddr, List.getD_append_right _ _ _ _ (Nat.le_add_right 7 i), encSub_length, Nat.add_sub_cancel_left]

theorem addrRegs_getElem (a : List Byte) {i : Nat} (h : i < 14) : (addrRegs a)[i] = a.getD i 0 :=
  Vector.getElem_ofFn h

theorem execAenc_of_tooLong {s : State} (h : 6 < s.regs.txDest.len.toNat ∨ 6 < s.regs.txSrc.len.toNat) :
    execAenc s = .next (s.endedWith 0x41) := by
  rcases execAenc_cases s with ⟨-, he⟩ | ⟨hd, hs, -⟩
  · exact he
  · omega

theorem execAenc_of_le {s : State} (hd : s.regs.txDest.len.toNat ≤ 6) (hs : s.regs.txSrc.len.toNat ≤ 6) :
    execAenc s = .next (State.completed .ok
      { s with regs := { s.regs with addr := addrRegs (encAddr s.regs.txDest s.regs.txSrc) } }) := by
  rcases execAenc_cases s with ⟨hlong, -⟩ | ⟨-, -, he⟩
  · omega
  · exact he

/-- Settles O30: by the length check, or the bytes of the two encoded sub-fields. -/
theorem addressEncodeCommand : Obligations.AddressEncodeCommand := by
  intro s
  refine ⟨execAenc_of_tooLong, fun hd hs => ⟨_, execAenc_of_le hd hs, fun i => ⟨?_, ?_⟩, ?_, ?_⟩⟩
  · rw [addrRegs_getElem, encAddr_getD_dest _ _ (by omega), encSub_getD]
  · rw [addrRegs_getElem, encAddr_getD_src, encSub_getD]
  · rw [addrRegs_getElem, encAddr_getD_dest _ _ (by decide), encSub_getD_six, encSsid_false]
  · rw [addrRegs_getElem, encAddr_getD_src _ _ 6, encSub_getD_six, encSsid_true]

/-! ### The decoded sub-field (R204, R205) -/

theorem decChars_length {b : List Byte} (h : 6 ≤ b.length) : (decChars b).length = 6 := by
  rw [decChars, List.length_map, List.length_take, Nat.min_eq_left h]

theorem decChars_getElem {b : List Byte} {i : Nat} (h : i < (decChars b).length) :
    (decChars b)[i] = b.getD i 0 >>> 1 := by
  have hb : i < b.length := by
    rw [decChars, List.length_map, List.length_take] at h
    omega
  rw [List.getD_eq_getElem _ _ hb]
  simp only [decChars, List.getElem_map, List.getElem_take]
  rfl

/-- The characters of a sub-field up to its trailing spaces. -/
theorem decLen_eq_length_rdropWhile {b : List Byte} (h : 6 ≤ b.length) :
    decLen b = ((decChars b).rdropWhile (· == Config.SPACE)).length := by
  have hsplit := congrArg List.length (List.rdropWhile_append_rtakeWhile (p := (· == Config.SPACE)) (l := decChars b))
  rw [List.length_append, decChars_length h, List.rtakeWhile, List.length_reverse] at hsplit
  unfold decLen
  omega

theorem char_eq_space_of_decLen_le {b : List Byte} (h : 6 ≤ b.length) {i : Nat} (hle : decLen b ≤ i) (hi : i < 6) :
    b.getD i 0 >>> 1 = 0x20 := by
  rw [decLen_eq_length_rdropWhile h] at hle
  have hlt : i < (decChars b).length := by rwa [decChars_length h]
  have hget := List.getElem?_append_right (l₂ := (decChars b).rtakeWhile (· == Config.SPACE)) hle
  rw [List.rdropWhile_append_rtakeWhile, List.getElem?_eq_getElem hlt, decChars_getElem] at hget
  exact eq_of_beq (List.mem_rtakeWhile_imp (p := (· == Config.SPACE)) (List.mem_of_getElem? hget.symm))

theorem last_char_ne_space {b : List Byte} (h : 6 ≤ b.length) (hpos : 0 < decLen b) :
    b.getD (decLen b - 1) 0 >>> 1 ≠ 0x20 := by
  have hlen := decLen_eq_length_rdropWhile h
  have hne : (decChars b).rdropWhile (· == Config.SPACE) ≠ [] := List.ne_nil_of_length_pos (hlen ▸ hpos)
  have hlast := List.rdropWhile_last_not (· == Config.SPACE) (decChars b) hne
  rw [List.getLast_eq_getElem, (List.rdropWhile_prefix _ _).getElem, decChars_getElem, ← hlen, beq_iff_eq] at hlast
  exact hlast

theorem decSub_len_toNat (b : List Byte) : (decSub b).len.toNat = decLen b :=
  Nat.mod_eq_of_lt ((decLen_le b).trans_lt (by decide))

theorem decSub_call {b : List Byte} (h : 6 ≤ b.length) (i : Fin 6) : (decSub b).call[i] = b.getD i 0 >>> 1 := by
  have hi : i.val < (decChars b).length := by rw [decChars_length h]; exact i.isLt
  rw [← decChars_getElem hi, ← List.getD_eq_getElem _ 0 hi]
  exact Vector.getElem_ofFn i.isLt

/-- R204, R205: a sub-field's decoding, read from the sub-field. -/
theorem decSub_reads {b : List Byte} (h : 6 ≤ b.length) : (decSub b).Reads b 0 := by
  simp only [Decoded.Reads, Nat.zero_add, decSub_len_toNat]
  exact ⟨decSub_call h, rfl, rfl, decLen_le b, fun i => char_eq_space_of_decLen_le h, last_char_ne_space h⟩

/-- Seven bytes of a string are read where they stand in it. -/
theorem Decoded.Reads.of_drop_take {d : Decoded} {bytes : List Byte} {o : Nat}
    (h : d.Reads ((bytes.drop o).take 7) 0) : d.Reads bytes o := by
  have hbyte : ∀ i < 7, ((bytes.drop o).take 7).getD (0 + i) 0 = bytes.getD (o + i) 0 := fun i hi => by
    rw [List.getD_eq_getElem?_getD, Nat.zero_add, List.getElem?_take_of_lt hi, List.getElem?_drop,
      List.getD_eq_getElem?_getD]
  obtain ⟨hcall, hssid, hext, hle, hspace, hlast⟩ := h
  rw [hbyte 6 (by decide)] at hssid hext
  refine ⟨fun i => ?_, hssid, hext, hle, fun i hi hi6 => ?_, fun hpos => ?_⟩
  · rw [← hbyte i (by omega)]; exact hcall i
  · rw [← hbyte i (by omega)]; exact hspace i hi hi6
  · rw [← hbyte _ (by omega)]; exact hlast hpos

theorem decSub_drop_take_reads {bytes : List Byte} {o : Nat} (h : o + 7 ≤ bytes.length) :
    (decSub ((bytes.drop o).take 7)).Reads bytes o :=
  .of_drop_take (decSub_reads (by rw [List.length_take, List.length_drop]; omega))

/-! ### ADEC (R206) -/

theorem execAdec_of_lenRange {s : State} (h : 274 < s.regs.logLen.toNat) :
    execAdec s = .next (s.endedWith 0x21) := if_pos h

theorem execAdec_of_short {s : State} (h : s.regs.logLen.toNat < 14) : execAdec s = .next (s.endedWith 0x81) :=
  (if_neg (Nat.not_lt.mpr (h.le.trans (by decide)))).trans (if_pos h)

theorem execAdec_of_le {s : State} (hmin : 14 ≤ s.regs.logLen.toNat) (hmax : s.regs.logLen.toNat ≤ 274) :
    execAdec s = withBytes .log 0 14 s fun bytes => finish .ok (s.writeDec bytes) :=
  (if_neg (Nat.not_lt.mpr hmax)).trans (if_neg (Nat.not_lt.mpr hmin))

/-- Settles O31: by the two length checks, the bytes LOG holds and the decoding of both sub-fields, or the first byte
unwritten. -/
theorem addressDecodeCommand : Obligations.AddressDecodeCommand := by
  intro s
  refine ⟨execAdec_of_lenRange, execAdec_of_short, fun bytes hl hmin hmax hlog => ?_, fun k hmin hmax hk => ?_⟩
  · exact ⟨_, _, (execAdec_of_le hmin hmax).trans (withBytes_of_holds hl hlog _),
      decSub_drop_take_reads (o := 0) (by omega), decSub_drop_take_reads (o := 7) (by omega)⟩
  · exact (execAdec_of_le hmin hmax).trans (withBytes_of_unwritten hk _)

/-! ### Decoding what was encoded (R208) -/

/-- R204: the length of a decoded sub-field is the only one with spaces from it on and no space before it. -/
theorem Decoded.Reads.len_eq {d : Decoded} {bytes : List Byte} {o n : Nat} (h : d.Reads bytes o) (hn : n ≤ 6)
    (hspace : ∀ i, n ≤ i → i < 6 → bytes.getD (o + i) 0 >>> 1 = 0x20)
    (hlast : 0 < n → bytes.getD (o + (n - 1)) 0 >>> 1 ≠ 0x20) : d.len.toNat = n := by
  obtain ⟨-, -, -, hle, hspace', hlast'⟩ := h
  rcases Nat.lt_trichotomy d.len.toNat n with hlt | heq | hgt
  · exact absurd (hspace' (n - 1) (by omega) (by omega)) (hlast (by omega))
  · exact heq
  · exact absurd (hspace (d.len.toNat - 1) (by omega) (by omega)) (hlast' (by omega))

/-- R200: a shift left and back loses bit 7 of a character. -/
theorem shiftLeft_ushiftRight_one_eq_iff (c : Byte) : c <<< 1 >>> 1 = c ↔ c.toNat < 0x80 := by
  rw [← BitVec.toNat_inj, BitVec.toNat_ushiftRight, BitVec.toNat_shiftLeft]
  have := c.isLt
  omega

/-- R201: the octet, bit 0 replaced by the extension bit. -/
theorem encSsid_getLsbD (ssid : Byte) (ext : Bool) {k : Nat} (hk : k < 8) :
    (encSsid ssid ext).getLsbD k = if k = 0 then ext else ssid.getLsbD k := by
  have hmask : (0xFE : Byte).getLsbD k = decide (k ≠ 0) := by
    revert k
    decide
  rw [encSsid, BitVec.getLsbD_or, BitVec.getLsbD_and, bitByte_getLsbD, hmask]
  by_cases h0 : k = 0 <;> simp [h0]

theorem encSsid_eq_self_iff (ssid : Byte) (ext : Bool) : encSsid ssid ext = ssid ↔ ssid.getLsbD 0 = ext := by
  constructor
  · intro h
    rw [← h, encSsid_getLsbD _ _ (by decide), if_pos rfl]
  · intro h
    apply BitVec.eq_of_getLsbD_eq
    intro k hk
    rw [encSsid_getLsbD _ _ hk]
    split
    · next h0 => rw [h0, h]
    · rfl

section
variable {t : Station} (ext : Bool)

theorem decSub_encSub_reads : (decSub (encSub t ext)).Reads (encSub t ext) 0 :=
  decSub_reads (by rw [encSub_length]; decide)

theorem encSub_char_of_lt {i : Fin 6} (h : i.val < t.len.toNat) :
    (encSub t ext).getD i 0 >>> 1 = t.call[i] <<< 1 >>> 1 := by
  rw [encSub_getD, if_pos h]

theorem encSub_char_of_le {i : Nat} (h : t.len.toNat ≤ i) (hi : i < 6) : (encSub t ext).getD i 0 >>> 1 = 0x20 := by
  rw [encSub_getD t ext ⟨i, hi⟩, if_neg (Nat.not_lt.mpr h)]
  rfl

theorem decSub_encSub_call {i : Fin 6} (h : i.val < t.len.toNat) :
    (decSub (encSub t ext)).call[i] = t.call[i] ↔ t.call[i].toNat < 0x80 := by
  rw [decSub_call (by rw [encSub_length]; decide), encSub_char_of_lt ext h, shiftLeft_ushiftRight_one_eq_iff]

theorem decSub_encSub_ssid : (decSub (encSub t ext)).ssid = t.ssid ↔ t.ssid.getLsbD 0 = ext :=
  encSsid_eq_self_iff t.ssid ext

/-- The length comes back where every used character does and the last is no space, which would read as padding. -/
theorem decSub_encSub_len (hlen : t.len.toNat ≤ 6)
    (hchars : ∀ i : Fin 6, i.val < t.len.toNat → t.call[i].toNat < 0x80) :
    (decSub (encSub t ext)).len = t.len ↔ ∀ i : Fin 6, i.val + 1 = t.len.toNat → t.call[i] ≠ 0x20 := by
  have hchar : ∀ i : Fin 6, i.val + 1 = t.len.toNat →
      (encSub t ext).getD (0 + (t.len.toNat - 1)) 0 >>> 1 = t.call[i] := fun i hi => by
    rw [← hi, Nat.zero_add, Nat.add_sub_cancel, encSub_char_of_lt ext (by omega),
      (shiftLeft_ushiftRight_one_eq_iff _).mpr (hchars i (by omega))]
  constructor
  · intro hl i hi
    obtain ⟨-, -, -, -, -, hlast⟩ := decSub_encSub_reads (t := t) ext
    rw [hl, hchar i hi] at hlast
    exact hlast (by omega)
  · intro hlast
    refine BitVec.eq_of_toNat_eq ((decSub_encSub_reads ext).len_eq hlen (fun i hle hi => ?_) fun hpos => ?_)
    · rw [Nat.zero_add]
      exact encSub_char_of_le ext hle hi
    · have hi : t.len.toNat - 1 + 1 = t.len.toNat := by omega
      rw [hchar ⟨t.len.toNat - 1, by omega⟩ hi]
      exact hlast _ hi

end

/-- Settles O32: the octet comes back by its bit 0, the characters by their bit 7, and then the length by the last of
them. -/
theorem addressDecodeInvertsEncode : Obligations.AddressDecodeInvertsEncode := by
  intro t ext hlen
  rw [decSub_encSub_ssid, forall₂_congr fun i h => decSub_encSub_call ext (i := i) h]
  exact and_congr_right fun hchars => and_congr_left' (decSub_encSub_len ext hlen hchars)

end Sys2Proof.Machine

/-! # ASM (O33, O34, O36, O37)

`execAsm_cases` says what ASM can do. Here stand what each argument check answers, what the assembled state holds and keeps,
and how long its frame is. -/
namespace Sys2Proof.Machine

/-! ### The argument checks (R115, R220) -/

theorem frameType_eq_none {f : BitVec 3} (h : 6 ≤ f.toNat) : frameType f = none := by
  revert f; decide

/-- R115, R220: the frame type of an FTYPE value that is not reserved, by what the later checks ask of it. -/
theorem exists_frameType {f : BitVec 3} (h : f.toNat ≤ 5) : ∃ ft ∈ frameType f,
    ft.clen.toNat = (if f.toNat = 5 then 1 else 2) ∧ (f.toNat = 0 ∨ f.toNat = 5 → ft.carriesInfo = true) := by
  revert f; decide

theorem tooLong_or_iff {a b : Station} : (a.tooLong || b.tooLong) = true ↔ 6 < a.len.toNat ∨ 6 < b.len.toNat := by
  rw [Bool.or_eq_true]
  exact or_congr decide_eq_true_iff decide_eq_true_iff

section
variable {ft : FrameType} {r : Regs}

theorem asmCheck_eq_clen (h : clenField r.txctl ≠ ft.clen) : asmCheck ft r = some .clen := if_pos h

variable (hclen : clenField r.txctl = ft.clen)
include hclen

theorem asmCheck_eq_alen (h : r.txAlen ≠ 14) : asmCheck ft r = some .alen := by
  rw [asmCheck, if_neg (not_not.mpr hclen)]
  exact if_pos h

variable (halen : r.txAlen = 14)
include halen

/-- R220: the two checks left. -/
theorem asmCheck_of_lengths : asmCheck ft r =
    if r.txDest.tooLong || r.txSrc.tooLong then some .callLen
    else if Config.INFO_CAP < payloadLen ft r then some .lenRange else none := by
  rw [asmCheck, if_neg (not_not.mpr hclen)]
  exact if_neg (not_not.mpr halen)

theorem asmCheck_eq_callLen (h : 6 < r.txDest.len.toNat ∨ 6 < r.txSrc.len.toNat) : asmCheck ft r = some .callLen := by
  rw [asmCheck_of_lengths hclen halen, if_pos (tooLong_or_iff.mpr h)]

theorem asmCheck_eq_lenRange (hdest : r.txDest.len.toNat ≤ 6) (hsrc : r.txSrc.len.toNat ≤ 6)
    (h : 255 < payloadLen ft r) : asmCheck ft r = some .lenRange := by
  rw [asmCheck_of_lengths hclen halen, if_neg (mt tooLong_or_iff.mp (by omega))]
  exact if_pos h

end

/-- Settles O33: FTYPE names a frame type or none, and the checks after it are taken one by one. -/
theorem asmArgumentChecks : Obligations.AsmArgumentChecks := by
  rintro s _ _ rfl rfl
  refine ⟨fun h6 => execAsm_of_no_type (frameType_eq_none h6), fun h5 hclen => ?_, fun h5 hclen => ?_⟩
  all_goals
    obtain ⟨ft, hft, hcl, hinfo⟩ := exists_frameType h5
    rw [← hcl] at hclen
  · exact execAsm_of_check hft (asmCheck_eq_clen (mt (congrArg BitVec.toNat) hclen))
  · have hclen' : clenField s.regs.txctl = ft.clen := BitVec.eq_of_toNat_eq hclen
    refine ⟨fun halen => ?_, fun halen hlong => ?_, fun halen hdest hsrc htype hlen => ?_⟩
    · exact execAsm_of_check hft (asmCheck_eq_alen hclen' halen)
    · exact execAsm_of_check hft (asmCheck_eq_callLen hclen' halen hlong)
    · have hpay : payloadLen ft s.regs = s.regs.infoLen.toNat := if_pos (hinfo htype)
      exact execAsm_of_check hft (asmCheck_eq_lenRange hclen' halen hdest hsrc (hpay ▸ hlen))

/-! ### A failing ASM (R228) -/

/-- R220: the RESULT bytes of the checks after FTYPE. -/
theorem asmCheck_byte_mem {ft : FrameType} {r : Regs} {c : Completion} (h : asmCheck ft r = some c) :
    c.byte ∈ [(0x61 : Byte), 0x71, 0x41, 0x21] := by
  unfold asmCheck at h
  split_ifs at h <;> cases h <;> decide

/-- Settles O37: an ASM that does not assemble has only completed, with the byte of the check that failed. -/
theorem failingAsmWritesNothing : Obligations.FailingAsmWritesNothing := by
  intro s t ht hne
  rcases execAsm_cases s with ⟨-, he⟩ | ⟨ft, c, -, hc, he⟩ | ⟨ft, -, -, ⟨payload, -, -, he⟩ | ⟨k, -, he⟩⟩ <;>
    cases he.symm.trans ht
  · exact ⟨rfl, List.mem_cons_self⟩
  · exact ⟨rfl, List.mem_cons_of_mem _ (asmCheck_byte_mem hc)⟩
  · exact absurd rfl hne

/-! ### The assembled state (R226, R227) -/

/-- R227. -/
theorem vsAfter_eq (ft : FrameType) (vs : BitVec 7) : vsAfter ft vs = if ft = .info then vs + 1 else vs := by
  cases ft <;> rfl

section
variable (s : State) (ft : FrameType) {payload : List Byte}

theorem assembled_holds_raw :
    (s.assembled ft payload).holds .raw 0 (rawFrame (withFcs (frameBody ft payload s.regs))) :=
  State.bufWrite_holds _ .raw _

theorem assembled_holds_log (hl : payload.length ≤ 255) :
    (s.assembled ft payload).holds .log 0 (withFcs (frameBody ft payload s.regs)) := by
  have hraw := rawFrame_length_le (withFcs_frameBody_length_le ft s.regs hl)
  refine State.holds_congr (fun k _ => ?_) (s.bufWrite_holds .log _)
  exact State.bufWrite_keepsOutside _ .raw 0 _ _ (.inr (by simp only [Buf.address, Buf.base]; omega))

theorem assembled_read_outside {x : Nat}
    (hraw : x < 0x200 ∨ 0x200 + (rawFrame (withFcs (frameBody ft payload s.regs))).length ≤ x)
    (hlog : x < 0x400 ∨ 0x400 + (withFcs (frameBody ft payload s.regs)).length ≤ x) :
    (s.assembled ft payload).mem.read x = s.mem.read x :=
  (State.bufWrite_keepsOutside _ .raw 0 _ x hraw).trans (s.bufWrite_keepsOutside .log 0 _ x hlog)

end

theorem Regs.AsmLegal.asmCheck_eq_none {r : Regs} {ft : FrameType} (h : r.AsmLegal ft) : asmCheck ft r = none := by
  have hclen : clenField r.txctl = ft.clen := by
    rw [show clenField r.txctl = _ from h.clen]
    cases ft <;> rfl
  exact asmCheck_none.mpr ⟨hclen, h.alen, h.dest, h.src, h.payload⟩

/-- Settles O34: with every check passed ASM reads INFO, and either assembles what it reads or faults. -/
theorem asmAssembles : Obligations.AsmAssembles := by
  intro s ft hlegal
  have hrun := execAsm_of_checked hlegal.type hlegal.asmCheck_eq_none
  refine ⟨?_, fun k hk => hrun.trans (withBytes_of_unwritten hk _)⟩
  rintro payload _ _ _ hl hinfo rfl rfl rfl
  rw [withBytes_of_holds hl hinfo] at hrun
  refine ⟨_, hrun, ?_, assembled_holds_log s ft (hl ▸ hlegal.payload), assembled_holds_raw s ft,
    fun x hraw hlog => assembled_read_outside s ft hraw hlog⟩
  rw [← vsAfter_eq]
  exact State.completed_ended .ok rfl rfl rfl rfl

/-! ### The length of the output (R229) -/

theorem rawFrame_length (frame : List Byte) : (rawFrame frame).length = byteCount (stuffedBits frame).length + 2 := by
  rw [rawFrame, List.length_cons, List.length_append, pack_length, List.length_singleton]

/-- R152 (4), (5), for the bits of a frame. -/
theorem stuffedBits_length_bounds (frame : List Byte) : 8 * frame.length ≤ (stuffedBits frame).length ∧
    (stuffedBits frame).length ≤ 8 * frame.length + 8 * frame.length / 5 := by
  rw [← bits_length]
  exact ⟨length_le_stuffFrom_length 0 _, stuff_length_le _⟩

/-- R229: an ASM that ends OK has assembled a frame. -/
theorem execAsm_ok_inv {s t : State} {ft : FrameType} (hft : frameType (ftypeField s.regs.txctl) = some ft)
    (ht : execAsm s = .next t) (h0 : t.regs.result = 0x00) :
    ∃ payload, payload.length ≤ 255 ∧ t = (s.assembled ft payload).completed .ok := by
  rcases execAsm_cases s with ⟨-, he⟩ | ⟨ft', c, -, hc, he⟩ | ⟨ft', hft', hc, ⟨payload, hl, -, he⟩ | ⟨k, -, he⟩⟩ <;>
    cases he.symm.trans ht
  · exact absurd h0 (show Completion.ftype.byte ≠ 0x00 by decide)
  · exact absurd h0 (asmCheck_byte_ne_zero hc)
  · cases hft.symm.trans hft'
    obtain ⟨-, -, -, -, hle⟩ := asmCheck_none.mp hc
    exact ⟨payload, hl ▸ hle, rfl⟩

/-- R229: what ASM leaves in the three length registers for a logical frame of `n` bytes. -/
theorem assembled_output_lengths {s : State} {ft : FrameType} {payload : List Byte} {n : Nat} (hl : payload.length ≤ 255)
    (hn : (withFcs (frameBody ft payload s.regs)).length = n) :
    (s.assembled ft payload).regs.logLen = BitVec.ofNat 16 n ∧
      8 * n ≤ (s.assembled ft payload).regs.rawBits.toNat ∧
      (s.assembled ft payload).regs.rawBits.toNat ≤ 8 * n + 8 * n / 5 ∧
      n + 2 ≤ (s.assembled ft payload).regs.rawLen.toNat ∧
      (s.assembled ft payload).regs.rawLen.toNat ≤ (8 * n + 8 * n / 5 + 7) / 8 + 2 := by
  have hcap := withFcs_frameBody_length_le ft s.regs hl
  obtain ⟨hge, hle⟩ := stuffedBits_length_bounds (withFcs (frameBody ft payload s.regs))
  have hlen := rawFrame_length (withFcs (frameBody ft payload s.regs))
  unfold byteCount at hlen
  have hbits : (s.assembled ft payload).regs.rawBits.toNat =
      (stuffedBits (withFcs (frameBody ft payload s.regs))).length := Nat.mod_eq_of_lt (by omega)
  have hraw : (s.assembled ft payload).regs.rawLen.toNat =
      (rawFrame (withFcs (frameBody ft payload s.regs))).length := Nat.mod_eq_of_lt (by omega)
  exact ⟨congrArg (BitVec.ofNat 16) hn, by omega, by omega, by omega, by omega⟩

/-- Settles O36: the frame's length is fixed by its type, and stuffing adds between none and a fifth of its bits. -/
theorem asmOutputLengths : Obligations.AsmOutputLengths := by
  intro s t ft hft ht h0
  obtain ⟨payload, hl, rfl⟩ := execAsm_ok_inv hft ht h0
  refine ⟨?_, ?_, ?_⟩
  · rintro rfl
    obtain ⟨hlen, -⟩ := infoFrame_layout s.regs hl
    exact assembled_output_lengths hl hlen
  · rintro ss rfl
    obtain ⟨hlen, -⟩ := supFrame_layout ss payload s.regs
    exact assembled_output_lengths hl hlen
  · rintro rfl
    obtain ⟨hlen, -⟩ := uiFrame_layout s.regs hl
    exact assembled_output_lengths hl hlen

end Sys2Proof.Machine

/-! # PARSE (O39, O40, O41, O42, O43, O44, O45, O46, O47, O48, O49)

What PARSE does, by what it finds: one equation per outcome of each of its steps. Once LOG holds a frame of legal length
the state is `State.withFrame`, and each step only replaces its registers. -/
namespace Sys2Proof.Machine

/-! ### The argument checks (R250) -/

theorem execParse_of_callLen {s : State} (h : 6 < s.regs.localStn.len.toNat) :
    execParse s = .next (s.rxCleared.endedWith 0x41) := if_pos (decide_eq_true h)

section
variable {s : State} (hstn : s.regs.localStn.len.toNat ≤ 6)
include hstn

/-- R250: the two checks left. -/
theorem execParse_of_station : execParse s =
    if 331 < s.regs.rawLen.toNat then finish .lenRange s.rxCleared
    else if s.regs.rawLen.toNat = 0 then finish .nullInput s.rxCleared
    else parseFlags s.regs.rawLen.toNat s.rxCleared :=
  if_neg (mt of_decide_eq_true (Nat.not_lt.mpr hstn))

theorem execParse_of_lenRange (h : 331 < s.regs.rawLen.toNat) : execParse s = .next (s.rxCleared.endedWith 0x21) :=
  (execParse_of_station hstn).trans (if_pos h)

theorem execParse_of_nullInput (h : s.regs.rawLen.toNat = 0) : execParse s = .next (s.rxCleared.endedWith 0x31) := by
  rw [execParse_of_station hstn, if_neg (by omega), if_pos h]
  rfl

theorem execParse_of_le (h1 : 1 ≤ s.regs.rawLen.toNat) (hle : s.regs.rawLen.toNat ≤ 331) :
    execParse s = parseFlags s.regs.rawLen.toNat s.rxCleared := by
  rw [execParse_of_station hstn, if_neg (by omega), if_neg (by omega)]

end

/-- Settles O39: the checks are taken one by one. -/
theorem parseArgumentChecks : Obligations.ParseArgumentChecks := fun _ =>
  ⟨execParse_of_callLen, fun hstn => ⟨execParse_of_lenRange hstn, execParse_of_nullInput hstn⟩⟩

/-! ### The flags (R251) -/

theorem withByte_of_read {s : State} {b : Buf} {i : Nat} {v : Byte} (h : s.mem.read (b.address i) = some v)
    (k : Byte → Outcome) : withByte b i s k = k v := by
  unfold withByte; rw [State.bufRead_ok.mpr h]

theorem withByte_of_unwritten {s : State} {b : Buf} {i : Nat} (h : s.mem.read (b.address i) = none)
    (k : Byte → Outcome) : withByte b i s k = .fault (.unwrittenRead (b.address i)) := by
  unfold withByte; rw [State.bufRead_error.mpr ⟨h, rfl⟩]

section
variable {s : State} {n : Nat}

theorem parseFlags_of_start_unwritten (h : s.mem.read 0x200 = none) : parseFlags n s = .fault (.unwrittenRead 0x200) :=
  withByte_of_unwritten (b := .raw) (i := 0) h _

theorem parseFlags_of_start_ne {b : Byte} (h : s.mem.read 0x200 = some b) (hb : b ≠ 0x7E) :
    parseFlags n s = .next (s.endedWith 0x12) :=
  (withByte_of_read (b := .raw) (i := 0) h _).trans (if_pos hb)

variable (hstart : s.mem.read 0x200 = some 0x7E)
include hstart

theorem parseFlags_of_start : parseFlags n s = withByte .raw (n - 1) s fun last =>
    if last ≠ Config.FLAG then finish .noEndFlag s
    else withBytes .raw 1 (n - 2) s fun interior => parseBody interior s :=
  (withByte_of_read (b := .raw) (i := 0) hstart _).trans (if_neg (not_not.mpr rfl))

theorem parseFlags_of_end_unwritten (h : s.mem.read (0x200 + (n - 1)) = none) :
    parseFlags n s = .fault (.unwrittenRead (0x200 + (n - 1))) :=
  (parseFlags_of_start hstart).trans (withByte_of_unwritten (b := .raw) h _)

theorem parseFlags_of_end_ne {b : Byte} (h : s.mem.read (0x200 + (n - 1)) = some b) (hb : b ≠ 0x7E) :
    parseFlags n s = .next (s.endedWith 0x22) := by
  rw [parseFlags_of_start hstart, withByte_of_read (b := .raw) h]
  exact if_pos hb

/-- R251: past both flags the interior is read. -/
theorem parseFlags_of_flags (hend : s.mem.read (0x200 + (n - 1)) = some 0x7E) :
    parseFlags n s = withBytes .raw 1 (n - 2) s fun interior => parseBody interior s := by
  rw [parseFlags_of_start hstart, withByte_of_read (b := .raw) hend]
  exact if_neg (not_not.mpr rfl)

end

/-- Settles O40: the first flag byte is read and checked, then the last one, then the bytes between them are read. -/
theorem parseFlagDetection : Obligations.ParseFlagDetection := by
  rintro s _ rfl hstn h1 hle
  have hrun := execParse_of_le hstn h1 hle
  refine ⟨fun h => ?_, fun b h hb => ?_, fun hstart => ⟨fun h => ?_, fun b h hb => ?_, fun k hend hk => ?_⟩⟩
  · exact hrun.trans (parseFlags_of_start_unwritten h)
  · exact hrun.trans (parseFlags_of_start_ne h hb)
  · exact hrun.trans (parseFlags_of_end_unwritten hstart h)
  · exact hrun.trans (parseFlags_of_end_ne hstart h hb)
  · exact hrun.trans ((parseFlags_of_flags (s := s.rxCleared) hstart hend).trans
      (withBytes_of_unwritten (s := s.rxCleared) hk _))

theorem State.Receives.execParse_eq {s : State} {interior : List Byte} (h : s.Receives interior) :
    execParse s = parseBody interior s.rxCleared := by
  rw [execParse_of_le h.station h.notNull h.inRange, parseFlags_of_flags (s := s.rxCleared) h.startFlag h.endFlag]
  exact withBytes_of_holds (s := s.rxCleared) h.length h.between _

/-! ### The interior (R252, R253) -/

section
variable {s : State} {interior : List Byte} {d : List Bool} (hd : d = destuff (bits interior))
include hd

theorem parseBody_of_overflow (h : 274 < d.length / 8) :
    parseBody interior s = .next ((s.logDestuffed d).completed .overflow) := by
  subst hd
  exact if_pos h

theorem parseBody_of_fits (h : d.length / 8 ≤ 274) : parseBody interior s =
    if d.length / 8 ≠ 18 ∧ d.length / 8 ≠ 274 then finish .badLength (s.logDestuffed d)
    else parseFcs (bytesOf (d.length / 8) d) (s.logDestuffed d) := by
  subst hd
  exact if_neg (Nat.not_lt.mpr h)

end

theorem State.rxCleared_logDestuffed_ended (s : State) (c : Completion) {d : List Bool} {r : Regs}
    (hregs : (s.rxCleared.logDestuffed d).regs = r) : Ended s ((s.rxCleared.logDestuffed d).completed c) c.byte r :=
  State.completed_ended c hregs (State.logDestuffed_rst _ d) (State.logDestuffed_inputs _ d)
    (State.logDestuffed_response _ d)

/-- Settles O41: the interior is destuffed into LOG, and its length is none that PARSE goes on with. -/
theorem parseLengthClassification : Obligations.ParseLengthClassification := by
  intro s interior d hrec hd
  refine ⟨fun hov => ?_, fun hfit h18 h274 => ?_⟩
  · obtain ⟨hregs, hlog, hkeep⟩ := s.rxCleared.logDestuffed_effect_of_overflow hov
    exact ⟨_, hrec.execParse_eq.trans (parseBody_of_overflow hd hov), s.rxCleared_logDestuffed_ended .overflow hregs,
      hlog, hkeep⟩
  · obtain ⟨hregs, hlog, hkeep⟩ := s.rxCleared.logDestuffed_effect_of_fits hfit
    exact ⟨_, hrec.execParse_eq.trans ((parseBody_of_fits hd hfit).trans (if_pos ⟨h18, h274⟩)),
      s.rxCleared_logDestuffed_ended .badLength hregs, hlog, hkeep⟩

/-! ### Past the length check -/

/-- A PARSE of `s` that has put this logical frame in LOG, the registers now being `r`. -/
def State.withFrame (frame : List Byte) (r : Regs) (s : State) : State := { s.bufWrite .log 0 frame with regs := r }

theorem State.ReceivesFrame.execParse_eq {s : State} {d : List Bool} {frame : List Byte} (h : s.ReceivesFrame d frame) :
    execParse s = parseFcs frame (s.withFrame frame (s.regs.afterDestuff d)) := by
  obtain ⟨⟨interior, hrec, hd⟩, hframe, hlegal⟩ := h
  have hlen : frame.length = d.length / 8 := by rw [hframe]; exact bytesOf_length (Nat.mul_div_le _ _)
  have hfit : d.length / 8 ≤ 274 := by omega
  rw [hrec.execParse_eq, parseBody_of_fits hd hfit, if_neg (by omega), State.logDestuffed_fits _ hfit, hframe]
  rfl

theorem State.parseEnds_of_eq {s : State} {frame : List Byte} {r : Regs} {c : Completion}
    (h : execParse s = finish c (s.withFrame frame r)) : s.ParseEnds frame c.byte r :=
  ⟨_, h, State.completed_ended c rfl rfl rfl rfl, s.bufWrite_holds .log frame, s.bufWrite_keepsOutside .log 0 frame⟩

section
variable {s : State} {d : List Bool} {frame : List Byte} (h : s.ReceivesFrame d frame)

section
include h

/-- R254. -/
theorem State.ReceivesFrame.execParse_of_not_fcsGood (hfcs : ¬ fcsGood frame) :
    execParse s = finish .integrityError (s.withFrame frame (s.regs.afterFcs d frame)) :=
  h.execParse_eq.trans (if_neg (mt fcsVerify_iff.mp hfcs))

theorem State.ReceivesFrame.execParse_of_fcsGood (hfcs : fcsGood frame) :
    execParse s = parseAddress frame (s.withFrame frame (s.regs.afterFcs d frame)) :=
  h.execParse_eq.trans (if_pos (fcsVerify_iff.mpr hfcs))

end

/-- R255: the two sub-fields of the address field are the frame's first fourteen bytes. -/
theorem State.writeDec_withFrame (s : State) (d : List Bool) (frame : List Byte) :
    (s.withFrame frame (s.regs.afterFcs d frame)).writeDec (frame.take 14) =
      s.withFrame frame (s.regs.afterAddress d frame) := by
  rw [State.writeDec, List.drop_take, List.take_take, List.take_take]
  rfl

theorem parseAddress_withFrame (s : State) (d : List Bool) (frame : List Byte) :
    parseAddress frame (s.withFrame frame (s.regs.afterFcs d frame)) =
      if localMatch s.regs.localStn frame then parseControl frame (s.withFrame frame (s.regs.afterAddress d frame))
      else finish .addressMismatch (s.withFrame frame (s.regs.afterAddress d frame)) := by
  rw [← State.writeDec_withFrame]
  rfl

variable (hfcs : fcsGood frame)
include h hfcs

theorem State.ReceivesFrame.execParse_of_mismatch (hstn : frame.take 7 ≠ encSub s.regs.localStn false) :
    execParse s = finish .addressMismatch (s.withFrame frame (s.regs.afterAddress d frame)) := by
  rw [h.execParse_of_fcsGood hfcs, parseAddress_withFrame]
  exact if_neg (mt eq_of_beq hstn)

variable (hstn : frame.take 7 = encSub s.regs.localStn false)
include hstn

theorem State.ReceivesFrame.execParse_of_match :
    execParse s = parseControl frame (s.withFrame frame (s.regs.afterAddress d frame)) := by
  rw [h.execParse_of_fcsGood hfcs, parseAddress_withFrame]
  exact if_pos (beq_iff_eq.mpr hstn)

/-- R256: an I-length frame. -/
theorem State.ReceivesFrame.execParse_of_info (hlen : frame.length = 274) :
    execParse s = parseInfo frame (s.withFrame frame (s.regs.afterInfoControl d frame)) :=
  (h.execParse_of_match hfcs hstn).trans (if_pos hlen)

/-- R256: an S-length frame. -/
theorem State.ReceivesFrame.execParse_of_sup (hlen : frame.length = 18) :
    execParse s = parseSup frame (s.withFrame frame (s.regs.afterSupControl d frame)) :=
  (h.execParse_of_match hfcs hstn).trans (if_neg (show frame.length ≠ 274 by omega))

end

/-- Settles O42: LOG holds the frame, and the check of its FCS ends PARSE. -/
theorem parseIntegrityCheck : Obligations.ParseIntegrityCheck := fun _ _ _ h hfcs =>
  State.parseEnds_of_eq (h.execParse_of_not_fcsGood hfcs)

/-- Settles O43: past the FCS the address field is decoded, and the match ends PARSE. -/
theorem parseAddressMismatch : Obligations.ParseAddressMismatch := fun _ _ _ h hfcs hstn =>
  State.parseEnds_of_eq (h.execParse_of_mismatch hfcs hstn)

/-! ### The information path (R257-R260) -/

theorem seqField_toNat (c : Byte) : (seqField c).toNat = c.toNat / 2 := by
  rw [seqField, BitVec.extractLsb'_toNat, Nat.shiftRight_one]
  exact Nat.mod_eq_of_lt (by omega)

theorem seqField_eq_iff {c : Byte} {n : BitVec 7} : seqField c = n ↔ c.toNat / 2 = n.toNat := by
  rw [← seqField_toNat, BitVec.toNat_inj]

section
variable {frame : List Byte} {s : State}

theorem parseInfo_of_notI (hi : (ctrl0 frame).getLsbD 0 = true) : parseInfo frame s = finish .notIControl s := if_pos hi

variable (hi : (ctrl0 frame).getLsbD 0 = false)
include hi

theorem parseInfo_of_seq_ne (hseq : seqField (ctrl0 frame) ≠ s.regs.vr) :
    parseInfo frame s = finish .sequenceMismatch s := by
  rw [parseInfo, hi, if_neg Bool.false_ne_true, if_pos hseq]

variable (hseq : seqField (ctrl0 frame) = s.regs.vr)
include hseq

/-- R259: the check left. -/
theorem parseInfo_of_seq : parseInfo frame s =
    if pidOf frame ≠ Config.PID_NOL3 then finish .protocolIdError s else finish .ok (s.deliver frame) := by
  rw [parseInfo, hi, if_neg Bool.false_ne_true, if_neg (not_not.mpr hseq)]

theorem parseInfo_of_pid_ne (hpid : pidOf frame ≠ 0xF0) : parseInfo frame s = finish .protocolIdError s :=
  (parseInfo_of_seq hi hseq).trans (if_pos hpid)

theorem parseInfo_of_accepted (hpid : pidOf frame = 0xF0) : parseInfo frame s = finish .ok (s.deliver frame) :=
  (parseInfo_of_seq hi hseq).trans (if_neg (not_not.mpr hpid))

end

/-- Settles O44: the three checks of the information path are taken one by one. -/
theorem parseInfoRejections : Obligations.ParseInfoRejections := by
  intro s d frame h hfcs hstn hlen
  have hrun := h.execParse_of_info hfcs hstn hlen
  refine ⟨fun hi => ?_, fun hi hseq => ?_, fun hi hseq hpid => ?_⟩
  · exact State.parseEnds_of_eq (hrun.trans (parseInfo_of_notI hi))
  · exact State.parseEnds_of_eq (hrun.trans (parseInfo_of_seq_ne hi (mt seqField_eq_iff.mp hseq)))
  · exact State.parseEnds_of_eq (hrun.trans (parseInfo_of_pid_ne hi (seqField_eq_iff.mpr hseq) hpid))

theorem State.deliver_read_info (s : State) {frame : List Byte} (hlen : frame.length = 274) {i : Nat} (hi : i < 255) :
    (s.deliver frame).mem.read (0x100 + i) = frame[17 + i]? := by
  have hin : i < ((frame.drop 17).take 255).length := by rw [List.length_take, List.length_drop]; omega
  refine (Memory.read_write_inside s.mem 0x100 _ i hin).trans ?_
  rw [List.getElem?_take_of_lt hi, List.getElem?_drop]

theorem State.deliver_read_outside (s : State) (frame : List Byte) {x : Nat} (hx : x < 0x100 ∨ 0x1FF ≤ x) :
    (s.deliver frame).mem.read x = s.mem.read x := by
  have hle : ((frame.drop 17).take 255).length ≤ 255 := List.length_take_le _ _
  exact Memory.read_write_outside s.mem 0x100 ((frame.drop 17).take 255) x (by omega)

/-- Settles O45: the frame passes each check, LOG holds it and INFO its information bytes. -/
theorem parseAcceptsInfoFrame : Obligations.ParseAcceptsInfoFrame := by
  intro s d frame h hfcs hstn hlen hi hseq hpid
  have hrun := (h.execParse_of_info hfcs hstn hlen).trans (parseInfo_of_accepted hi (seqField_eq_iff.mpr hseq) hpid)
  refine ⟨_, hrun, State.completed_ended .ok rfl rfl rfl rfl, fun k hk => ?_,
    fun i hi => State.deliver_read_info _ hlen hi, fun x hinfo hlog => ?_⟩
  · refine (State.deliver_read_outside _ frame (.inr ?_)).trans (s.bufWrite_holds .log frame k hk)
    simp only [Buf.address, Buf.base]; omega
  · exact (State.deliver_read_outside _ frame hinfo).trans (s.bufWrite_keepsOutside .log 0 frame x (by rwa [hlen]))

/-! ### The supervisory path (R261, R262) -/

/-- Settles O46: the dispatch on C0. -/
theorem parseSupervisoryFrame : Obligations.ParseSupervisoryFrame := by
  intro s d frame h hfcs hstn hlen
  have hrun := h.execParse_of_sup hfcs hstn hlen
  refine ⟨fun hc => ?_, fun hc => ?_⟩
  · exact State.parseEnds_of_eq (hrun.trans (if_pos (legalSupervisory_iff.mpr hc)))
  · exact State.parseEnds_of_eq (hrun.trans (if_neg (mt legalSupervisory_iff.mp hc)))

/-! ### What PARSE never writes (R263, R264)

`State.ParseOutcome` lists the states PARSE can end in; each of its steps answers one of them. -/

/-- The registers PARSE writes on no path, every other register at its reset value. -/
def Regs.keptByParse (r : Regs) : Regs :=
  { Regs.reset with
    ovr := r.ovr, doneIe := r.doneIe, vs := r.vs, rawLen := r.rawLen, rawBits := r.rawBits, txctl := r.txctl
    txAlen := r.txAlen, txDest := r.txDest, txSrc := r.txSrc, localStn := r.localStn, addr := r.addr }

theorem Regs.keptByParse_eq_iff {r r' : Regs} : r'.keptByParse = r.keptByParse ↔
    r'.ovr = r.ovr ∧ r'.doneIe = r.doneIe ∧ r'.vs = r.vs ∧ r'.rawLen = r.rawLen ∧ r'.rawBits = r.rawBits ∧
    r'.txctl = r.txctl ∧ r'.txAlen = r.txAlen ∧ r'.txDest = r.txDest ∧ r'.txSrc = r.txSrc ∧
    r'.localStn = r.localStn ∧ r'.addr = r.addr := by
  simp only [Regs.keptByParse, Regs.mk.injEq, true_and, and_true]

/-- A state that a PARSE begun in `s` may stand in before it ends: nothing is accepted or delivered yet. -/
structure State.Undelivered (s u : State) : Prop where
  regs : u.regs.keptByParse = s.regs.keptByParse
  noKind : u.regs.rxKind = 0
  vr : u.regs.vr = s.regs.vr
  infoLen : u.regs.infoLen = s.regs.infoLen
  memory : ∀ x, x < 0x400 ∨ 0x512 ≤ x → u.mem.read x = s.mem.read x

/-- The states a PARSE begun in `s` can end in. -/
inductive State.ParseOutcome (s : State) : State → Prop where
  /-- A check fails (R250-R255, R257-R259, R262). -/
  | rejected {u : State} {c : Completion} (h : s.Undelivered u) (hc : c ≠ .ok) : s.ParseOutcome (u.completed c)
  /-- An I frame is accepted (R260). -/
  | delivered {u : State} (frame : List Byte) (h : s.Undelivered u) :
      s.ParseOutcome ((u.deliver frame).completed .ok)
  /-- An S frame is accepted (R261). -/
  | supervisory {u : State} (h : s.Undelivered u) :
      s.ParseOutcome (State.completed .ok { u with regs := { u.regs with rxKind := 2 } })

section
variable {s : State}

theorem State.undelivered_rxCleared : s.Undelivered s.rxCleared := ⟨rfl, rfl, rfl, rfl, fun _ _ => rfl⟩

/-- R156: LOG_LEN, DSTF_TAIL and bytes of LOG are all that destuffing writes, with or without an overflow. -/
theorem State.logDestuffed_effect (s : State) (d : List Bool) : ∃ len tail,
    (s.logDestuffed d).regs = { s.regs with logLen := len, dstfTail := tail } ∧
      s.keepsOutside (s.logDestuffed d) 0x400 274 := by
  by_cases hfit : d.length / 8 ≤ 274
  · obtain ⟨hregs, -, hkeep⟩ := s.logDestuffed_effect_of_fits hfit
    exact ⟨_, _, hregs, fun x hx => hkeep x (by omega)⟩
  · obtain ⟨hregs, -, hkeep⟩ := s.logDestuffed_effect_of_overflow (Nat.lt_of_not_le hfit)
    exact ⟨_, _, hregs, hkeep⟩

theorem State.Undelivered.logDestuffed {u : State} (h : s.Undelivered u) (d : List Bool) :
    s.Undelivered (u.logDestuffed d) := by
  obtain ⟨len, tail, hregs, hkeep⟩ := u.logDestuffed_effect d
  constructor
  case memory => exact fun x hx => (hkeep x hx).trans (h.memory x hx)
  all_goals rw [hregs]
  · exact h.regs
  · exact h.noKind
  · exact h.vr
  · exact h.infoLen

/-- Every next state this outcome may be is one that a PARSE begun in `s` can end in. -/
def State.ParseAnswers (s : State) (o : Outcome) : Prop := ∀ t, o = .next t → s.ParseOutcome t

theorem State.parseAnswers_next {t : State} (h : s.ParseOutcome t) : s.ParseAnswers (.next t) := by
  rintro _ ⟨⟩; exact h

theorem State.parseAnswers_fault (f : Fault) : s.ParseAnswers (.fault f) := by
  rintro _ ⟨⟩

theorem State.Undelivered.reject {u : State} (h : s.Undelivered u) {c : Completion} (hc : c ≠ .ok) :
    s.ParseAnswers (.next (u.completed c)) := State.parseAnswers_next (.rejected h hc)

theorem parseInfo_answers (frame : List Byte) {u : State} (h : s.Undelivered u) : s.ParseAnswers (parseInfo frame u) := by
  rcases parseInfo_cases frame u with ⟨-, he⟩ | ⟨-, -, he⟩ | ⟨-, -, -, he⟩ | ⟨-, -, -, he⟩ <;> rw [he]
  · exact h.reject nofun
  · exact h.reject nofun
  · exact h.reject nofun
  · exact State.parseAnswers_next (.delivered frame h)

theorem parseSup_answers (frame : List Byte) {u : State} (h : s.Undelivered u) : s.ParseAnswers (parseSup frame u) := by
  rcases parseSup_cases frame u with ⟨-, he⟩ | ⟨-, he⟩ <;> rw [he]
  · exact State.parseAnswers_next (.supervisory h)
  · exact h.reject nofun

theorem parseControl_answers (frame : List Byte) {u : State} (h : s.Undelivered u) :
    s.ParseAnswers (parseControl frame u) := by
  rcases parseControl_cases frame u with ⟨-, he⟩ | ⟨-, he⟩ <;> rw [he]
  · exact parseInfo_answers frame ⟨h.regs, h.noKind, h.vr, h.infoLen, h.memory⟩
  · exact parseSup_answers frame ⟨h.regs, h.noKind, h.vr, h.infoLen, h.memory⟩

theorem parseAddress_answers (frame : List Byte) {u : State} (h : s.Undelivered u) :
    s.ParseAnswers (parseAddress frame u) := by
  have hdec : s.Undelivered (u.writeDec (frame.take 14)) := ⟨h.regs, h.noKind, h.vr, h.infoLen, h.memory⟩
  rcases parseAddress_cases frame u with ⟨-, he⟩ | ⟨-, he⟩ <;> rw [he]
  · exact parseControl_answers frame hdec
  · exact hdec.reject nofun

theorem parseFcs_answers (frame : List Byte) {u : State} (h : s.Undelivered u) : s.ParseAnswers (parseFcs frame u) := by
  obtain ⟨t, ht, hcases⟩ := parseFcs_cases frame u
  have hfcs : s.Undelivered t := ht ▸ ⟨h.regs, h.noKind, h.vr, h.infoLen, h.memory⟩
  rcases hcases with ⟨-, he⟩ | ⟨-, he⟩ <;> rw [he]
  · exact parseAddress_answers frame hfcs
  · exact hfcs.reject nofun

theorem parseBody_answers (interior : List Byte) {u : State} (h : s.Undelivered u) :
    s.ParseAnswers (parseBody interior u) := by
  obtain ⟨d, -, ⟨-, he⟩ | ⟨-, -, -, he⟩ | ⟨-, he⟩⟩ := parseBody_cases interior u <;> rw [he]
  · exact (h.logDestuffed d).reject nofun
  · exact (h.logDestuffed d).reject nofun
  · exact parseFcs_answers _ (h.logDestuffed d)

theorem parseFlags_answers (n : Nat) {u : State} (h : s.Undelivered u) : s.ParseAnswers (parseFlags n u) := by
  rcases parseFlags_cases n u with ⟨-, he⟩ | ⟨b, -, -, he⟩ |
    ⟨-, ⟨-, he⟩ | ⟨b, -, -, he⟩ | ⟨-, ⟨interior, -, -, he⟩ | ⟨k, -, he⟩⟩⟩ <;> rw [he]
  · exact State.parseAnswers_fault _
  · exact h.reject nofun
  · exact State.parseAnswers_fault _
  · exact h.reject nofun
  · exact parseBody_answers interior h
  · exact State.parseAnswers_fault _

theorem execParse_answers (s : State) : s.ParseAnswers (execParse s) := by
  have h := s.undelivered_rxCleared
  rcases execParse_cases s with ⟨-, he⟩ | ⟨-, -, he⟩ | ⟨-, -, he⟩ | ⟨-, -, -, he⟩ <;> rw [he]
  · exact h.reject nofun
  · exact h.reject nofun
  · exact h.reject nofun
  · exact parseFlags_answers _ h

theorem State.ParseOutcome.keptByParse {t : State} (h : s.ParseOutcome t) :
    t.regs.keptByParse = s.regs.keptByParse := by
  cases h with
  | rejected h _ => exact h.regs
  | delivered _ h => exact h.regs
  | supervisory h => exact h.regs

theorem State.ParseOutcome.read_outside {t : State} (h : s.ParseOutcome t) {x : Nat} (hinfo : x < 0x100 ∨ 0x1FF ≤ x)
    (hlog : x < 0x400 ∨ 0x512 ≤ x) : t.mem.read x = s.mem.read x := by
  cases h with
  | rejected h _ => exact h.memory x hlog
  | delivered frame h => exact (State.deliver_read_outside _ frame hinfo).trans (h.memory x hlog)
  | supervisory h => exact h.memory x hlog

/-- R264 (6): only an accepted I frame is delivered. -/
theorem State.ParseOutcome.undelivered {t : State} (h : s.ParseOutcome t) (hk : t.regs.rxKind ≠ 1) :
    t.regs.vr = s.regs.vr ∧ t.regs.infoLen = s.regs.infoLen ∧ ∀ x, x < 0x400 → t.mem.read x = s.mem.read x := by
  cases h with
  | rejected h _ => exact ⟨h.vr, h.infoLen, fun x hx => h.memory x (.inl hx)⟩
  | delivered _ _ => exact absurd rfl hk
  | supervisory h => exact ⟨h.vr, h.infoLen, fun x hx => h.memory x (.inl hx)⟩

theorem Completion.byte_eq_zero_iff {c : Completion} : c.byte = 0x00 ↔ c = .ok := by
  cases c <;> decide

/-- R263: RX_KIND says that a frame was accepted exactly where RESULT does. -/
theorem State.ParseOutcome.accepted_iff {t : State} (h : s.ParseOutcome t) :
    t.regs.rxKind = 1 ∨ t.regs.rxKind = 2 ↔ t.regs.result = 0x00 := by
  cases h with
  | rejected h hc =>
    rw [State.completed_regs, h.noKind]
    exact iff_of_false (by decide) (mt Completion.byte_eq_zero_iff.mp hc)
  | delivered _ _ => exact iff_of_true (.inl rfl) rfl
  | supervisory _ => exact iff_of_true (.inr rfl) rfl

end

/-- Settles O47: each clause holds in every state PARSE can end in. -/
theorem parseWritesOnlyReceiveState : Obligations.ParseWritesOnlyReceiveState := by
  intro s t ht
  have hout := execParse_answers s t ht
  obtain ⟨hovr, hie, hvs, hlen, hbits, hctl, halen, hdest, hsrc, hstn, haddr⟩ :=
    Regs.keptByParse_eq_iff.mp hout.keptByParse
  exact ⟨hvs, hctl, halen, hdest, hsrc, hstn, haddr, hlen, hbits, hie, hovr,
    fun _ hinfo hlog => hout.read_outside hinfo hlog, hout.undelivered, hout.accepted_iff⟩

/-! ### Receiving a frame that was stuffed and framed (R122, R266) -/

theorem State.holds_append {s : State} {b : Buf} {i : Nat} {vs ws : List Byte} :
    s.holds b i (vs ++ ws) ↔ s.holds b i vs ∧ s.holds b (i + vs.length) ws := by
  induction vs generalizing i with
  | nil => exact (and_iff_right (s.holds_nil b i)).symm
  | cons v vs ih =>
    rw [List.cons_append, State.holds_cons, State.holds_cons, ih, and_assoc, List.length_cons, Nat.add_right_comm,
      Nat.add_assoc i vs.length 1]

/-- R122, R152: the interior of a raw frame destuffs to the frame's bits and zero bits that fill no byte. -/
theorem destuff_bits_pack_stuffedBits (frame : List Byte) : ∃ p < 8,
    destuff (bits (pack (stuffedBits frame))) = bits frame ++ List.replicate p false := by
  refine ⟨8 * byteCount (stuffedBits frame).length - (stuffedBits frame).length, by unfold byteCount; omega, ?_⟩
  rw [bits_pack]
  exact destuffInvertsStuffWithPadding _ _

theorem State.receivesFrame_of_rawFrame {u : State} {frame : List Byte} (hstn : u.regs.localStn.len.toNat ≤ 6)
    (hlegal : frame.length = 18 ∨ frame.length = 274) (hlen : u.regs.rawLen.toNat = (rawFrame frame).length)
    (hraw : u.holds .raw 0 (rawFrame frame)) : ∃ d, u.ReceivesFrame d frame := by
  have hcap : (rawFrame frame).length ≤ 331 := rawFrame_length_le (by omega)
  have hlen' : u.regs.rawLen.toNat = (pack (stuffedBits frame)).length + 2 := by rw [hlen, rawFrame_length, pack_length]
  obtain ⟨hstart, hrest⟩ := State.holds_cons.mp hraw
  obtain ⟨hbetween, hlast⟩ := State.holds_append.mp hrest
  obtain ⟨hend, -⟩ := State.holds_cons.mp hlast
  have hindex : u.regs.rawLen.toNat - 1 = 0 + 1 + (pack (stuffedBits frame)).length := by omega
  obtain ⟨p, hp, hd⟩ := destuff_bits_pack_stuffedBits frame
  have hwhole : (bits frame ++ List.replicate p false).length / 8 = frame.length := by
    rw [List.length_append, bits_length, List.length_replicate]; omega
  refine ⟨_, ⟨_, ⟨hstn, by omega, by omega, hstart, hindex ▸ hend, by omega, hbetween⟩, hd.symm⟩, ?_, hlegal⟩
  rw [hwhole, List.take_left' (bits_length frame), pack_bits]

/-! ### The FCS field of a received frame (R184, R254) -/

theorem hi8_append_lo8 (w : Half) : hi8 w ++ lo8 w = w := BitVec.extractLsb'_append_extractLsb'

/-- The FCS field ends the frame, and the bytes before it are those the FCS covers. -/
theorem fcsGood_append_fcsField {body sent : List Byte} :
    fcsGood (body ++ fcsField sent) ↔ fcsCompute sent = fcsCompute body := by
  have hlen : (body ++ fcsField sent).length = body.length + 2 := List.length_append
  have hlo : (body ++ fcsField sent).getD body.length 0 = lo8 (fcsCompute sent) := by
    rw [List.getD_append_right _ _ _ _ le_rfl, Nat.sub_self]; rfl
  have hhi : (body ++ fcsField sent).getD (body.length + 1) 0 = hi8 (fcsCompute sent) := by
    rw [List.getD_append_right _ _ _ _ (Nat.le_add_right _ 1), Nat.add_sub_cancel_left]; rfl
  rw [fcsGood, hlen, Nat.add_sub_cancel, show body.length + 2 - 1 = body.length + 1 from rfl, hlo, hhi, List.take_left,
    hi8_append_lo8]

theorem fcsGood_withFcs (body : List Byte) : fcsGood (withFcs body) := fcsGood_append_fcsField.mpr rfl

/-! ### ASM then PARSE (R266 (1)) -/

/-- R228: an ASM that ends OK has assembled the payload INFO holds. -/
theorem execAsm_ok_payload {s t : State} {ft : FrameType} {payload : List Byte}
    (hft : frameType (ftypeField s.regs.txctl) = some ft) (ht : execAsm s = .next t) (h0 : t.regs.result = 0x00)
    (hl : payload.length = payloadLen ft s.regs) (hinfo : s.holds .info 0 payload) :
    payload.length ≤ 255 ∧ t = (s.assembled ft payload).completed .ok := by
  cases hc : asmCheck ft s.regs with
  | some c =>
    cases (execAsm_of_check hft hc).symm.trans ht
    exact absurd h0 (asmCheck_byte_ne_zero hc)
  | none =>
    obtain ⟨-, -, -, -, hle⟩ := asmCheck_none.mp hc
    rw [execAsm_of_checked hft hc, withBytes_of_holds hl hinfo] at ht
    cases ht
    exact ⟨hl ▸ hle, rfl⟩

theorem assembled_rawLen_toNat (s : State) (ft : FrameType) {payload : List Byte} (hl : payload.length ≤ 255) :
    (s.assembled ft payload).regs.rawLen.toNat = (rawFrame (withFcs (frameBody ft payload s.regs))).length := by
  have hcap := rawFrame_length_le (withFcs_frameBody_length_le ft s.regs hl)
  exact Nat.mod_eq_of_lt (by omega)

theorem withFcs_frameBody_take_dest (ft : FrameType) (payload : List Byte) (r : Regs) :
    (withFcs (frameBody ft payload r)).take 7 = encSub r.txDest false := by
  rw [withFcs, frameBody, encAddr]
  simp only [List.append_assoc]
  exact List.take_left' (encSub_length _ _)

/-- R118: C0 of an I frame has bit 0 clear and N(S) above it. -/
theorem infoCtrl0_fields : ∀ n : BitVec 7, (n ++ 0#1).getLsbD 0 = false ∧ (n ++ 0#1).toNat / 2 = n.toNat := by decide

theorem getD_of_getElem?_eq_some {frame : List Byte} {i : Nat} {c : Byte} (h : frame[i]? = some c) :
    frame.getD i 0 = c := by
  rw [List.getD_eq_getElem?_getD, h, Option.getD_some]

/-- Settles O48: the frame ASM left in RAW is received whole, and it passes every check of the information path. -/
theorem assembleThenParseDelivers : Obligations.AssembleThenParseDelivers := by
  intro s t u payload htype hl hinfo ht h0 hrawLen hraw hstn hdest hvr
  have hft : frameType (ftypeField s.regs.txctl) = some .info := congrArg frameType htype
  obtain ⟨hle, rfl⟩ := execAsm_ok_payload hft ht h0 hl hinfo
  obtain ⟨hlen, hc0, -, hpid, hbytes⟩ := infoFrame_layout s.regs hle
  obtain ⟨hi, hseq⟩ := infoCtrl0_fields s.regs.vs
  rw [← getD_of_getElem?_eq_some hc0] at hi hseq
  have hraw' : u.holds .raw 0 (rawFrame (withFcs (frameBody .info payload s.regs))) :=
    State.holds_congr (fun k hk => by
      rw [Nat.zero_add]; exact hraw k (assembled_rawLen_toNat s .info hle ▸ hk)) (assembled_holds_raw s .info)
  obtain ⟨d, hd⟩ := State.receivesFrame_of_rawFrame hstn (.inr hlen)
    (hrawLen ▸ assembled_rawLen_toNat s .info hle) hraw'
  obtain ⟨w, hw, hended, -, hdelivered, -⟩ := parseAcceptsInfoFrame u d _ hd (fcsGood_withFcs _)
    ((withFcs_frameBody_take_dest .info payload s.regs).trans hdest.symm) hlen hi (hvr ▸ hseq)
    (getD_of_getElem?_eq_some hpid)
  refine ⟨w, hw, by rw [hended.regs], by rw [hended.regs], by rw [hended.regs], by rw [hended.regs], fun k hk => ?_⟩
  have hk' : k < 255 := infoField_length hle ▸ hk
  rw [Nat.zero_add]
  exact (hdelivered k hk').trans ((hbytes k hk').trans (infoField_getElem? hle hk').symm)

/-! ### A changed information byte (R266 (2)) -/

theorem bits_set_getElem?_of_ne {s : List Byte} {k j : Nat} (v : Byte) (hj : j / 8 ≠ k) :
    (bits (s.set k v))[j]? = (bits s)[j]? := by
  by_cases hlt : j / 8 < s.length
  · have h8 : j % 8 < 8 := Nat.mod_lt _ (by decide)
    have hset := bits_getElem? (s := s.set k v) (by rwa [List.length_set]) h8
    have hbit := bits_getElem? hlt h8
    rw [Nat.div_add_mod] at hset hbit
    rw [hset, hbit, List.getD_eq_getElem?_getD, List.getD_eq_getElem?_getD, List.getElem?_set_ne hj.symm]
  · rw [List.getElem?_eq_none, List.getElem?_eq_none] <;> simp only [bits_length, List.length_set] <;> omega

/-- R187: one changed byte is a burst of at most eight bits. -/
theorem fcsCompute_set_ne {s : List Byte} {k : Nat} {v : Byte} (hv : s.set k v ≠ s) :
    fcsCompute (s.set k v) ≠ fcsCompute s := fun h =>
  hv (eq_of_fcsCompute_eq (k := 8 * k) List.length_set (fun _ _ => bits_set_getElem?_of_ne v (by omega)) h)

/-- Settles O49: the changed frame is received whole, with the FCS of the unchanged bytes. -/
theorem corruptedInfoByteFailsIntegrity : Obligations.CorruptedInfoByteFailsIntegrity := by
  rintro u body k v _ _ hbody rfl - hk hv rfl hstn hlen hraw
  have hset : (withFcs body).set k v = body.set k v ++ fcsField body := List.set_append_left k v (by omega)
  have hne : body.set k v ≠ body := fun hsame => hv (by
    rw [withFcs, List.getElem?_append_left (by omega), ← hsame, List.getElem?_set_self (by omega)])
  have hfcs : ¬ fcsGood ((withFcs body).set k v) := by
    rw [hset, fcsGood_append_fcsField]
    exact (fcsCompute_set_ne hne).symm
  obtain ⟨d, hd⟩ := State.receivesFrame_of_rawFrame hstn (.inr (by rw [List.length_set, withFcs_length, hbody])) hlen hraw
  obtain ⟨w, hw, hended, -⟩ := parseIntegrityCheck u d _ hd hfcs
  exact ⟨w, hw, by rw [hended.regs], by rw [hended.regs]; rfl, by rw [hended.regs]; rfl⟩

end Sys2Proof.Machine

/-! # The link-state counters (O53)

What each command does to VS and VR, then what one step can do to the registers. -/
namespace Sys2Proof.Machine

/-- VS and VR (R36). -/
def Regs.counters (r : Regs) : BitVec 7 × BitVec 7 := (r.vs, r.vr)

theorem Regs.counters_eq_iff {r r' : Regs} : r'.counters = r.counters ↔ r'.vs = r.vs ∧ r'.vr = r.vr := Prod.mk_inj

/-! ### The commands that modify neither -/

/-- STUFF, FCSGEN and FCSCHK read the LOG_LEN bytes of LOG after one length check (R153, R185, R186). -/
theorem counters_eq_of_log_read {s t t' : State} {o : Outcome} {n : Nat} {u : List Byte → State}
    (h : (274 < n ∧ o = .next t') ∨
      (n ≤ 274 ∧ ∃ bytes, bytes.length = n ∧ s.holds .log 0 bytes ∧ o = .next (u bytes)) ∨
      (n ≤ 274 ∧ ∃ k, s.firstUnwritten .log 0 n k ∧ o = .fault (.unwrittenRead (Buf.log.address k))))
    (hchecked : t'.regs.counters = s.regs.counters) (hread : ∀ bytes, (u bytes).regs.counters = s.regs.counters)
    (ht : o = .next t) : t.regs.counters = s.regs.counters := by
  rcases h with ⟨-, he⟩ | ⟨-, bytes, -, -, he⟩ | ⟨-, k, -, he⟩ <;> cases he.symm.trans ht
  · exact hchecked
  · exact hread bytes

@[simp] theorem State.logDestuffed_counters (s : State) (d : List Bool) :
    (s.logDestuffed d).regs.counters = s.regs.counters := by
  obtain ⟨len, tail, hregs, -⟩ := s.logDestuffed_effect d
  rw [hregs]
  rfl

theorem execDestuff_counters {s t : State} (h : execDestuff s = .next t) : t.regs.counters = s.regs.counters := by
  rcases execDestuff_cases s with ⟨-, he⟩ | ⟨-, bytes, d, -, -, -, he⟩ | ⟨-, k, -, he⟩ <;> cases he.symm.trans h
  · rfl
  · exact s.logDestuffed_counters d

theorem execAenc_counters {s t : State} (h : execAenc s = .next t) : t.regs.counters = s.regs.counters := by
  rcases execAenc_cases s with ⟨-, he⟩ | ⟨-, -, he⟩ <;> cases he.symm.trans h <;> rfl

theorem execAdec_counters {s t : State} (h : execAdec s = .next t) : t.regs.counters = s.regs.counters := by
  rcases execAdec_cases s with ⟨-, he⟩ | ⟨-, he⟩ | ⟨-, -, ⟨bytes, -, -, he⟩ | ⟨k, -, he⟩⟩ <;>
    cases he.symm.trans h <;> rfl

/-- The commands that write a counter: the four modifiers of R293 and the soft reset. -/
def counterCommands : List Instr := [.incvs, .incvr, .asm, .parse, .srst]

theorem exec_counters_of_not_mem {i : Instr} {s t : State} (hi : i ∉ counterCommands) (h : exec i s = .next t) :
    t.regs.counters = s.regs.counters := by
  cases i with
  | stuff => exact counters_eq_of_log_read (execStuff_cases s) rfl (fun _ => rfl) h
  | fcsgen => exact counters_eq_of_log_read (execFcsgen_cases s) rfl (fun _ => rfl) h
  | fcschk => exact counters_eq_of_log_read (execFcschk_cases s) rfl (fun _ => rfl) h
  | destuff => exact execDestuff_counters h
  | aenc => exact execAenc_counters h
  | adec => exact execAdec_counters h
  | asm | parse | incvs | incvr | srst => exact absurd (by decide) hi
  | nop | reserved0b | reserved0c | reserved0d | reserved0e => cases h; rfl
  | illegal80 | illegal40 | illegal20 | illegal10 => cases h; rfl

/-! ### The modifiers (R227, R260, R293) -/

/-- R115: FTYPE 0, and no other value, is an I frame. -/
theorem frameType_eq_info_iff : ∀ f : BitVec 3, frameType f = some .info ↔ f = 0 := by decide

/-- R227, R228: VS advances with an I frame that assembles. -/
theorem execAsm_counters {s t : State} (h : execAsm s = .next t) :
    t.regs.vs = (if ftypeField s.regs.txctl = 0 ∧ t.regs.result = 0x00 then s.regs.vs + 1 else s.regs.vs) ∧
      t.regs.vr = s.regs.vr := by
  rcases execAsm_cases s with ⟨-, he⟩ | ⟨ft, c, -, hc, he⟩ | ⟨ft, hft, -, ⟨payload, -, -, he⟩ | ⟨k, -, he⟩⟩ <;>
    cases he.symm.trans h
  · exact ⟨(if_neg fun ⟨_, hok⟩ => absurd hok (show Completion.ftype.byte ≠ 0x00 by decide)).symm, rfl⟩
  · exact ⟨(if_neg fun ⟨_, hok⟩ => asmCheck_byte_ne_zero hc hok).symm, rfl⟩
  · have hinfo : ft = .info ↔ ftypeField s.regs.txctl = 0 := by
      rw [← frameType_eq_info_iff, hft, Option.some_inj]
    refine ⟨(vsAfter_eq ft s.regs.vs).trans ?_, rfl⟩
    exact if_congr (hinfo.trans (and_iff_left rfl).symm) rfl rfl

/-- R260, R264: VR advances with an I frame that PARSE accepts. -/
theorem execParse_counters {s t : State} (h : execParse s = .next t) :
    t.regs.vs = s.regs.vs ∧ t.regs.vr = if t.regs.rxKind = 1 then s.regs.vr + 1 else s.regs.vr := by
  have hout := execParse_answers s t h
  obtain ⟨-, -, hvs, -⟩ := Regs.keptByParse_eq_iff.mp hout.keptByParse
  refine ⟨hvs, ?_⟩
  cases hout with
  | rejected hu _ => exact hu.vr.trans (if_neg (by rw [State.completed_regs, hu.noKind]; decide)).symm
  | delivered _ hu => exact congrArg incr hu.vr
  | supervisory hu => exact hu.vr

/-! ### Every command -/

/-- R293, but for the soft reset. -/
theorem exec_counters {i : Instr} {s t : State} (h : exec i s = .next t) (hi : i ≠ .srst) :
    (t.regs.vs = if i = .incvs ∨ (i = .asm ∧ s.regs.txctl.extractLsb' 0 3 = 0 ∧ t.regs.result = 0x00)
      then s.regs.vs + 1 else s.regs.vs) ∧
    (t.regs.vr = if i = .incvr ∨ (i = .parse ∧ t.regs.rxKind = 1) then s.regs.vr + 1 else s.regs.vr) := by
  by_cases hmem : i ∈ counterCommands
  · simp only [counterCommands, List.mem_cons, List.not_mem_nil, or_false] at hmem
    rcases hmem with rfl | rfl | rfl | rfl | rfl
    · cases h; exact ⟨rfl, rfl⟩
    · cases h; exact ⟨rfl, rfl⟩
    · obtain ⟨hvs, hvr⟩ := execAsm_counters h
      exact ⟨hvs.trans (if_congr (by simp [ftypeField]) rfl rfl), by simpa using hvr⟩
    · simpa using execParse_counters h
    · exact absurd rfl hi
  · have hkept := Regs.counters_eq_iff.mp (exec_counters_of_not_mem hmem h)
    simp only [counterCommands, List.mem_cons, not_or] at hmem
    obtain ⟨hincvs, hincvr, hasm, hparse, -⟩ := hmem
    simpa [hincvs, hincvr, hasm, hparse] using hkept

/-- What one step can do to the counters. -/
inductive Regs.CountersMove (r r' : Regs) : Prop where
  /-- Neither changes. -/
  | kept (h : r'.counters = r.counters)
  /-- INCVS, or ASM of an I frame (R291, R227). -/
  | sent (hvs : r'.vs = r.vs + 1) (hvr : r'.vr = r.vr)
  /-- INCVR, or PARSE of an I frame (R292, R260). -/
  | received (hvs : r'.vs = r.vs) (hvr : r'.vr = r.vr + 1)
  /-- A reset, soft or hard (R301, R341). -/
  | cleared (hvs : r'.vs = 0) (hvr : r'.vr = 0)

/-- No command advances both counters. -/
theorem exec_countersMove {i : Instr} {s t : State} (h : exec i s = .next t) : s.regs.CountersMove t.regs := by
  by_cases hi : i = .srst
  · subst hi
    cases h
    exact .cleared rfl rfl
  · obtain ⟨hvs, hvr⟩ := exec_counters h hi
    split_ifs at hvs hvr with hsent hreceived hreceived
    · rcases hsent with rfl | ⟨rfl, -⟩ <;> simp at hreceived
    · exact .sent hvs hvr
    · exact .received hvs hvr
    · exact .kept (Regs.counters_eq_iff.mpr ⟨hvs, hvr⟩)

/-! ### Every step -/

/-- How one step comes by the registers of its next state `t`, those before it being `r`. -/
inductive RegsStep (r : Regs) (t : State) : Prop where
  /-- They stay as they were. -/
  | kept (h : t.regs = r)
  /-- A CMD write while BUSY = 1 (R346). -/
  | overrun (h : t.regs = { r with ovr := true })
  /-- A host write of a register byte (R32, R84). -/
  | hostWrite (g : Reg) (k : Nat) (v : Byte) (h : t.regs = writeReg k v r g)
  /-- A hard reset (R341). -/
  | reset (h : t.regs = Regs.reset)
  /-- A command runs, from these registers (R94). -/
  | command (i : Instr) (u : State) (hu : u.regs = r) (h : exec i u = .next t)

section
variable {s t : State}

theorem hostRead_regs {a : Addr} (h : hostRead a s = .next t) : t.regs = s.regs := by
  unfold hostRead at h
  cases hread : memRead s a with
  | error e => rw [hread] at h; cases h
  | ok v => rw [hread] at h; cases h; rfl

theorem memWrite_regsStep (a : Addr) (v : Byte) (s : State) : RegsStep s.regs (memWrite a v s) := by
  rcases memWrite_cases a v s with ⟨row, k, -, he⟩ | ⟨b, i, -, he⟩ | he <;> rw [he]
  · exact .hostWrite row.name k v rfl
  · exact .kept rfl
  · exact .kept rfl

theorem setRst_regsStep (level : Bool) (s : State) : RegsStep s.regs (s.setRst level) := by
  cases level with
  | true => exact .reset rfl
  | false => exact .kept rfl

theorem heldInput_regsStep {x : Input} (h : heldInput x s = .next t) : RegsStep s.regs t := by
  cases x with
  | read | write | issue | complete => cases h; exact .kept rfl
  | rst level => cases h; exact setRst_regsStep level s
  | powerOn => cases h; exact .reset rfl

theorem idleInput_regsStep {x : Input} (h : idleInput x s = .next t) : RegsStep s.regs t := by
  cases x with
  | read a => exact .kept (hostRead_regs h)
  | write a v =>
    simp only [idleInput] at h
    split at h
    · exact .command _ _ (s.start_regs _) h
    · cases h; exact memWrite_regsStep a v s
  | issue v =>
    simp only [idleInput] at h
    split at h
    · cases h; exact .kept rfl
    · exact .command _ _ (s.start_regs _) h
  | complete => cases h; exact .kept rfl
  | rst level => cases h; exact setRst_regsStep level s
  | powerOn => cases h; exact .reset rfl

theorem busyInput_regsStep {i : Instr} {x : Input} (h : busyInput i x s = .next t) : RegsStep s.regs t := by
  cases x with
  | read a =>
    simp only [busyInput] at h
    split at h
    · exact .kept (hostRead_regs h)
    · cases h
  | write a v =>
    simp only [busyInput] at h
    split at h
    · cases h; exact .overrun rfl
    · cases h
  | issue v => cases h; exact .overrun rfl
  | complete => exact .command i s rfl h
  | rst level => cases h; exact setRst_regsStep level s
  | powerOn => cases h; exact .reset rfl

theorem step_regsStep (h : step s = .next t) : RegsStep s.regs t := by
  rcases step_cases s with ⟨-, ⟨-, he⟩ | ⟨x, rest, -, he⟩⟩ | ⟨-, -, ⟨-, he⟩ | ⟨x, rest, -, he⟩⟩ |
    ⟨i, -, -, ⟨-, he⟩ | ⟨x, rest, -, he⟩⟩ <;> rw [he] at h
  · cases h; exact .kept rfl
  · exact s.take_regs rest ▸ heldInput_regsStep h
  · cases h; exact .kept rfl
  · exact s.take_regs rest ▸ idleInput_regsStep h
  · exact .command i s rfl h
  · exact s.take_regs rest ▸ busyInput_regsStep h

@[simp] theorem writeReg_counters (k : Nat) (v : Byte) (r : Regs) (g : Reg) :
    (writeReg k v r g).counters = r.counters := by
  cases g <;> rfl

theorem RegsStep.countersMove {r : Regs} (h : RegsStep r t) : r.CountersMove t.regs := by
  cases h with
  | kept h => exact .kept (congrArg Regs.counters h)
  | overrun h => exact .kept (by rw [h]; rfl)
  | hostWrite g k v h => exact .kept ((congrArg Regs.counters h).trans (writeReg_counters k v r g))
  | reset h => exact .cleared (congrArg Regs.vs h) (congrArg Regs.vr h)
  | command i u hu h => exact hu ▸ exec_countersMove h

end

/-- R84: VS and VR are read-only. -/
theorem memWrite_counters (a : Addr) (v : Byte) (s : State) : (memWrite a v s).regs.counters = s.regs.counters := by
  rcases memWrite_cases a v s with ⟨row, k, -, he⟩ | ⟨b, i, -, he⟩ | he <;> rw [he]
  · exact writeReg_counters k v s.regs row.name
  · rfl

/-- Settles O53: the commands one by one, and a step by how it comes by its registers. -/
theorem countersChangeOnlyByTheirModifiers : Obligations.CountersChangeOnlyByTheirModifiers := by
  refine ⟨fun _ _ _ h hi => exec_counters h hi, fun s a v => Regs.counters_eq_iff.mp (memWrite_counters a v s),
    fun s t h => ?_⟩
  cases (step_regsStep h).countersMove with
  | kept h =>
    obtain ⟨hvs, hvr⟩ := Regs.counters_eq_iff.mp h
    exact ⟨.inl hvs, .inl hvr, fun hne => absurd hvs hne⟩
  | sent hvs hvr => exact ⟨.inr (.inl hvs), .inl hvr, fun _ hne => absurd hvr hne⟩
  | received hvs hvr => exact ⟨.inl hvs, .inr (.inl hvr), fun hne => absurd hvs hne⟩
  | cleared hvs hvr => exact ⟨.inr (.inr hvs), .inr (.inr hvr), fun _ _ => ⟨hvs, hvr⟩⟩

end Sys2Proof.Machine

/-! # The control commands (O50, O51, O52)

Each of these commands is one `finish`: of the state as it is, of a state with one counter advanced, or of the reset
registers. -/
namespace Sys2Proof.Machine

/-- R312: `finish` alone leaves its RESULT byte, DONE, and the block idle. -/
theorem State.completed_eq_endedWith (s : State) (c : Completion) : s.completed c = s.endedWith c.byte := rfl

/-- R290: the increment wraps at 128. -/
theorem incr_eq_ofNat (x : BitVec 7) : incr x = BitVec.ofNat 7 ((x.toNat + 1) % 128) := by
  apply BitVec.eq_of_toNat_eq
  simp [incr, BitVec.toNat_add]

/-- R300. -/
theorem exec_nop (s : State) : exec .nop s = .next (s.completed .ok) := rfl

/-- R291. -/
theorem exec_incvs (s : State) :
    exec .incvs s = .next (State.completed .ok { s with regs := { s.regs with vs := incr s.regs.vs } }) := rfl

/-- R292. -/
theorem exec_incvr (s : State) :
    exec .incvr s = .next (State.completed .ok { s with regs := { s.regs with vr := incr s.regs.vr } }) := rfl

/-- R301. -/
theorem exec_srst (s : State) : exec .srst s = .next (s.softReset.completed .ok) := rfl

/-- R302: the reserved opcodes and the four illegal rows, whatever value an illegal row carries. -/
theorem isCommand_of_mem_nonCommands {c : Byte} {i : Instr}
    (h : i ∈ [Instr.reserved0b, .reserved0c, .reserved0d, .reserved0e, .illegal80 c, .illegal40 c, .illegal20 c,
      .illegal10 c]) : i.isCommand = false := by
  fin_cases h <;> rfl

/-- Settles O50: NOP is the bare completion; INCVS and INCVR complete with their counter at `incr`. -/
theorem nopAndIncrements : Obligations.NopAndIncrements := by
  intro s
  refine ⟨?_, ?_, ?_⟩
  · rw [exec_nop, State.completed_eq_endedWith]
    rfl
  · rw [exec_incvs, incr_eq_ofNat]
    rfl
  · rw [exec_incvr, incr_eq_ofNat]
    rfl

/-- Settles O51: the completion of the soft reset, whose registers are those of the reset state. -/
theorem softReset : Obligations.SoftReset := by
  intro s
  rw [exec_srst]
  rfl

/-- Settles O52: the eight CMD rows that are no commands all complete as illegal commands. -/
theorem nonCommandsCompleteIllegal : Obligations.NonCommandsCompleteIllegal := by
  intro s c i hi
  rw [exec_of_not_isCommand (isCommand_of_mem_nonCommands hi), finish, State.completed_eq_endedWith]
  rfl

end Sys2Proof.Machine

/-! # Completion and the interrupt (O54, O17)

A command is a walk to one `finish`. Until then only SRST touches OVR, IRQ_EN, the RST level or the model's own fields, so
the completed state says what DONE and IRQ are. -/
namespace Sys2Proof.Machine

/-! ### What a command leaves alone before it finishes -/

/-- What no command but SRST writes on its way to `finish`: OVR and DONE_IE of the register file, and what belongs to the
outside world. -/
def State.kept (s : State) : Bool × Bool × Bool × List Input × Option Byte :=
  (s.regs.ovr, s.regs.doneIe, s.rst, s.inputs, s.response)

theorem State.kept_eq_iff {s u : State} : u.kept = s.kept ↔
    u.regs.ovr = s.regs.ovr ∧ u.regs.doneIe = s.regs.doneIe ∧ u.rst = s.rst ∧ u.inputs = s.inputs ∧
    u.response = s.response := by
  simp only [State.kept, Prod.mk.injEq]

@[simp] theorem State.logDestuffed_kept (s : State) (d : List Bool) : (s.logDestuffed d).kept = s.kept := by
  obtain ⟨len, tail, hregs, -⟩ := s.logDestuffed_effect d
  refine State.kept_eq_iff.mpr ⟨?_, ?_, s.logDestuffed_rst d, s.logDestuffed_inputs d, s.logDestuffed_response d⟩ <;>
    rw [hregs]

/-- R312: every next state this outcome may be is a completion of a state that agrees with `s` on `State.kept`. -/
def State.Finishes (s : State) (o : Outcome) : Prop :=
  ∀ t, o = .next t → ∃ (c : Completion) (u : State), t = u.completed c ∧ u.kept = s.kept

section
variable {s : State}

theorem State.finishes_completed {u : State} (h : u.kept = s.kept) {c : Completion} :
    s.Finishes (.next (u.completed c)) := by
  rintro _ ⟨⟩; exact ⟨c, u, rfl, h⟩

theorem State.finishes_fault (f : Fault) : s.Finishes (.fault f) := by
  rintro _ ⟨⟩

/-! ### The commands but PARSE and SRST -/

/-- STUFF, FCSGEN and FCSCHK read the LOG_LEN bytes of LOG after one length check (R153, R185, R186). -/
theorem finishes_of_log_read {o : Outcome} {n : Nat} {c : Completion} {d : List Byte → Completion}
    {u : List Byte → State}
    (h : (274 < n ∧ o = .next (s.completed c)) ∨
      (n ≤ 274 ∧ ∃ bytes, bytes.length = n ∧ s.holds .log 0 bytes ∧ o = .next ((u bytes).completed (d bytes))) ∨
      (n ≤ 274 ∧ ∃ k, s.firstUnwritten .log 0 n k ∧ o = .fault (.unwrittenRead (Buf.log.address k))))
    (hu : ∀ bytes, (u bytes).kept = s.kept) : s.Finishes o := by
  rcases h with ⟨-, he⟩ | ⟨-, bytes, -, -, he⟩ | ⟨-, k, -, he⟩ <;> rw [he]
  · exact State.finishes_completed rfl
  · exact State.finishes_completed (hu bytes)
  · exact State.finishes_fault _

variable (s)

theorem execDestuff_finishes : s.Finishes (execDestuff s) := by
  rcases execDestuff_cases s with ⟨-, he⟩ | ⟨-, bytes, d, -, -, -, he⟩ | ⟨-, k, -, he⟩ <;> rw [he]
  · exact State.finishes_completed rfl
  · exact State.finishes_completed (s.logDestuffed_kept d)
  · exact State.finishes_fault _

theorem execAenc_finishes : s.Finishes (execAenc s) := by
  rcases execAenc_cases s with ⟨-, he⟩ | ⟨-, -, he⟩ <;> rw [he] <;> exact State.finishes_completed rfl

theorem execAdec_finishes : s.Finishes (execAdec s) := by
  rcases execAdec_cases s with ⟨-, he⟩ | ⟨-, he⟩ | ⟨-, -, ⟨bytes, -, -, he⟩ | ⟨k, -, he⟩⟩ <;> rw [he]
  · exact State.finishes_completed rfl
  · exact State.finishes_completed rfl
  · exact State.finishes_completed rfl
  · exact State.finishes_fault _

theorem execAsm_finishes : s.Finishes (execAsm s) := by
  rcases execAsm_cases s with ⟨-, he⟩ | ⟨ft, c, -, -, he⟩ | ⟨ft, -, -, ⟨payload, -, -, he⟩ | ⟨k, -, he⟩⟩ <;> rw [he]
  · exact State.finishes_completed rfl
  · exact State.finishes_completed rfl
  · exact State.finishes_completed rfl
  · exact State.finishes_fault _

variable {s}

/-! ### PARSE

Each of its steps runs from a state `u` that agrees with `s`, in which PARSE began, on `State.kept`. -/

section
variable {u : State} (h : u.kept = s.kept)
include h

theorem parseInfo_finishes (frame : List Byte) : s.Finishes (parseInfo frame u) := by
  rcases parseInfo_cases frame u with ⟨-, he⟩ | ⟨-, -, he⟩ | ⟨-, -, -, he⟩ | ⟨-, -, -, he⟩ <;> rw [he]
  · exact State.finishes_completed h
  · exact State.finishes_completed h
  · exact State.finishes_completed h
  · exact State.finishes_completed (u := u.deliver frame) h

theorem parseSup_finishes (frame : List Byte) : s.Finishes (parseSup frame u) := by
  rcases parseSup_cases frame u with ⟨-, he⟩ | ⟨-, he⟩ <;> rw [he]
  · exact State.finishes_completed (u := { u with regs := { u.regs with rxKind := 2 } }) h
  · exact State.finishes_completed h

theorem parseControl_finishes (frame : List Byte) : s.Finishes (parseControl frame u) := by
  rcases parseControl_cases frame u with ⟨-, he⟩ | ⟨-, he⟩ <;> rw [he]
  · exact parseInfo_finishes (u := u.rxInfo frame) h frame
  · exact parseSup_finishes (u := u.rxSup frame) h frame

theorem parseAddress_finishes (frame : List Byte) : s.Finishes (parseAddress frame u) := by
  have hdec : (u.writeDec (frame.take 14)).kept = s.kept := h
  rcases parseAddress_cases frame u with ⟨-, he⟩ | ⟨-, he⟩ <;> rw [he]
  · exact parseControl_finishes hdec frame
  · exact State.finishes_completed hdec

theorem parseFcs_finishes (frame : List Byte) : s.Finishes (parseFcs frame u) := by
  obtain ⟨t, ht, hcases⟩ := parseFcs_cases frame u
  have hfcs : t.kept = s.kept := by rw [ht]; exact h
  rcases hcases with ⟨-, he⟩ | ⟨-, he⟩ <;> rw [he]
  · exact parseAddress_finishes hfcs frame
  · exact State.finishes_completed hfcs

theorem parseBody_finishes (interior : List Byte) : s.Finishes (parseBody interior u) := by
  obtain ⟨d, -, hcases⟩ := parseBody_cases interior u
  have hlog : (u.logDestuffed d).kept = s.kept := (u.logDestuffed_kept d).trans h
  rcases hcases with ⟨-, he⟩ | ⟨-, -, -, he⟩ | ⟨-, he⟩ <;> rw [he]
  · exact State.finishes_completed hlog
  · exact State.finishes_completed hlog
  · exact parseFcs_finishes hlog _

theorem parseFlags_finishes (n : Nat) : s.Finishes (parseFlags n u) := by
  rcases parseFlags_cases n u with ⟨-, he⟩ | ⟨b, -, -, he⟩ |
    ⟨-, ⟨-, he⟩ | ⟨b, -, -, he⟩ | ⟨-, ⟨interior, -, -, he⟩ | ⟨k, -, he⟩⟩⟩ <;> rw [he]
  · exact State.finishes_fault _
  · exact State.finishes_completed h
  · exact State.finishes_fault _
  · exact State.finishes_completed h
  · exact parseBody_finishes h interior
  · exact State.finishes_fault _

end

theorem execParse_finishes (s : State) : s.Finishes (execParse s) := by
  have h : s.rxCleared.kept = s.kept := rfl
  rcases execParse_cases s with ⟨-, he⟩ | ⟨-, -, he⟩ | ⟨-, -, he⟩ | ⟨-, -, -, he⟩ <;> rw [he]
  · exact State.finishes_completed h
  · exact State.finishes_completed h
  · exact State.finishes_completed h
  · exact parseFlags_finishes h _

/-! ### Every command -/

theorem exec_finishes {i : Instr} (hi : i ≠ .srst) (s : State) : s.Finishes (exec i s) := by
  cases i with
  | stuff => exact finishes_of_log_read (execStuff_cases s) fun _ => rfl
  | fcsgen => exact finishes_of_log_read (execFcsgen_cases s) fun _ => rfl
  | fcschk => exact finishes_of_log_read (execFcschk_cases s) fun _ => rfl
  | destuff => exact execDestuff_finishes s
  | aenc => exact execAenc_finishes s
  | adec => exact execAdec_finishes s
  | asm => exact execAsm_finishes s
  | parse => exact execParse_finishes s
  | srst => exact absurd rfl hi
  | incvs | incvr => exact State.finishes_completed rfl
  | nop | reserved0b | reserved0c | reserved0d | reserved0e => exact State.finishes_completed rfl
  | illegal80 | illegal40 | illegal20 | illegal10 => exact State.finishes_completed rfl

end

/-- Settles O54: SRST completes the soft reset, every other command a state that agrees with its own on `State.kept`. -/
theorem everyCommandFinishes : Obligations.EveryCommandFinishes := by
  intro i s t ht
  by_cases hi : i = .srst
  · subst hi
    cases ht
    exact ⟨Completion.ok.byte_legal, rfl, rfl, rfl, rfl, rfl, fun hne => absurd rfl hne⟩
  · obtain ⟨c, u, rfl, hu⟩ := exec_finishes hi s t ht
    obtain ⟨hovr, hie, hrst, hin, hresp⟩ := State.kept_eq_iff.mp hu
    exact ⟨c.byte_legal, rfl, rfl, hrst, hin, hresp, fun _ => ⟨hovr, hie⟩⟩

/-! ### The writes that reach IRQ (R33, R35) -/

theorem memWrite_irqEn (v : Byte) (s : State) :
    memWrite 0x003 v s = { s with regs := { s.regs with doneIe := v.getLsbD 0 } } :=
  memWrite_of_covers_rw (row := ⟨.irqEn, 0x003, 1, .rw⟩) v s (by decide) (by decide) rfl

theorem memWrite_status (v : Byte) (s : State) : memWrite STATUS v s = { s with regs := clearStatus v s.regs } := by
  have hrow : ⟨.status, 0x001, 1, .w1c⟩ ∈ regMap := by decide
  unfold memWrite
  rw [locate_of_covers hrow (by decide)]
  rfl

/-! ### A hard reset in any state (R340, R343) -/

theorem step_of_input {s : State} {x : Input} {rest : List Input} (hin : s.inputs = x :: rest) :
    step s = onInput x (s.take rest) := by
  unfold step hostStep
  rw [hin]

theorem onInput_rst (level : Bool) (s : State) : onInput (.rst level) s = .next (s.setRst level) := by
  unfold onInput
  cases s.rst <;> cases s.inFlight <;> rfl

theorem onInput_powerOn (s : State) : onInput .powerOn s = .next s.hardReset := by
  unfold onInput
  cases s.rst <;> cases s.inFlight <;> rfl

theorem step_hardReset_regs {s t : State} {rest : List Input}
    (hin : s.inputs = .rst true :: rest ∨ s.inputs = .powerOn :: rest) (ht : step s = .next t) :
    t.regs = Regs.reset := by
  rcases hin with hin | hin <;> rw [step_of_input hin] at ht
  · cases (onInput_rst true _).symm.trans ht
    rfl
  · cases (onInput_powerOn _).symm.trans ht
    rfl

theorem irq_of_regs_reset {t : State} (h : t.regs = Regs.reset) : t.irq = false := by
  rw [State.irq, h]
  rfl

/-- Settles O17: a completion sets DONE and keeps DONE_IE (O54), and the writes and the resets are read off the registers
they leave. -/
theorem interruptFollowsDoneAndEnable : Obligations.InterruptFollowsDoneAndEnable := by
  refine ⟨fun _ => rfl, fun i s t hi ht => ?_, fun s t ht => ?_, fun s v => ?_, fun s v hv => ?_,
    fun s t rest hin ht => irq_of_regs_reset (step_hardReset_regs hin ht)⟩
  · obtain ⟨-, hdone, -, -, -, -, hkeep⟩ := everyCommandFinishes i s t ht
    obtain ⟨-, hie⟩ := hkeep hi
    rw [State.irq, hdone, hie, Bool.true_and]
  · cases (exec_srst s).symm.trans ht
    rfl
  · rw [memWrite_irqEn]
    rfl
  · rw [memWrite_status, State.irq, clearStatus, hv, Bool.not_true, Bool.and_false, Bool.false_and]

end Sys2Proof.Machine

/-! # Reset and hazards (O56, O5, O6, O7, O9, O11, O58)

What a step does for a host that waits; then with a command in flight, at a hard reset, and with RST high. -/
namespace Sys2Proof.Machine

/-! ### The host that waits (R345) -/

/-- R91: the one fault of a host read. -/
theorem memRead_error {s : State} {a : Addr} {f : Fault} (h : memRead s a = .error f) : ∃ x, f = .unwrittenRead x := by
  unfold memRead at h
  cases hloc : locate a with
  | reg row k => rw [hloc] at h; cases h
  | buf b i =>
    rw [hloc] at h
    exact ⟨b.address i, (State.bufRead_error.mp h).2⟩
  | reserved => rw [hloc] at h; cases h

/-- R33: the write of STATUS can clear OVR, and no other register write reaches it. -/
theorem writeReg_ovr {k : Nat} {v : Byte} {r : Regs} {g : Reg} (h : (writeReg k v r g).ovr = true) : r.ovr = true := by
  cases g with
  | status => exact (Bool.and_eq_true_iff.mp h).1
  | _ => exact h

theorem memWrite_ovr {a : Addr} {v : Byte} {s : State} (h : (memWrite a v s).regs.ovr = true) : s.regs.ovr = true := by
  rcases memWrite_cases a v s with ⟨row, k, -, he⟩ | ⟨b, i, -, he⟩ | he <;> rw [he] at h
  · exact writeReg_ovr h
  · exact h
  · exact h

/-- The state `t` is idle, has no input to come that `s` had not, and has OVR set only where `s` has. -/
structure State.IdlesAfter (s t : State) : Prop where
  idle : t.inFlight = none
  inputs : t.inputs ⊆ s.inputs
  ovr : t.regs.ovr = true → s.regs.ovr = true

/-- The outcome is not the hazard fault of R347, and its next state idles after `s`. -/
def State.AvoidsHazard (s : State) (o : Outcome) : Prop :=
  (∀ a, o ≠ .fault (.busyHazard a)) ∧ ∀ t, o = .next t → s.IdlesAfter t

theorem State.IdlesAfter.avoidsHazard {s t : State} (h : s.IdlesAfter t) : s.AvoidsHazard (.next t) := by
  refine ⟨nofun, fun u hu => ?_⟩
  cases hu
  exact h

theorem State.avoidsHazard_unwrittenRead (s : State) (x : Nat) : s.AvoidsHazard (.fault (.unwrittenRead x)) := by
  refine ⟨nofun, fun t ht => ?_⟩
  cases ht

/-- R91, R312: a command faults on unwritten bytes only and ends idle; SRST clears OVR, and the others keep it. -/
theorem runCommand_avoidsHazard (v : Byte) (s : State) : s.AvoidsHazard (runCommand v s) := by
  refine ⟨fun a ha => ?_, fun t ht => ?_⟩
  · obtain ⟨-, hfault⟩ := commandsFaultOnlyOnUnwrittenBytes (decodeByte v) (s.start (decodeByte v))
    obtain ⟨x, hx, -⟩ := hfault _ ha
    cases hx
  · obtain ⟨-, -, hidle, -, hin, -, hkeep⟩ := everyCommandFinishes _ _ t ht
    refine ⟨hidle, hin ▸ List.Subset.refl _, fun hovr => ?_⟩
    by_cases hi : decodeByte v = .srst
    · rw [runCommand, hi, exec_srst] at ht
      cases ht
      cases hovr
    · obtain ⟨hsame, -⟩ := hkeep hi
      exact hsame ▸ hovr

theorem State.idlesAfter_hardReset (s : State) : s.IdlesAfter s.hardReset := ⟨rfl, List.Subset.refl _, nofun⟩

section
variable {s : State} (hf : s.inFlight = none)
include hf

theorem State.idlesAfter_self : s.IdlesAfter s := ⟨hf, List.Subset.refl _, id⟩

theorem State.idlesAfter_respond (v : Byte) : s.IdlesAfter (s.respond v) := ⟨hf, List.Subset.refl _, id⟩

theorem State.idlesAfter_setRst (level : Bool) : s.IdlesAfter (s.setRst level) := by
  cases level with
  | true => exact ⟨rfl, List.Subset.refl _, nofun⟩
  | false => exact ⟨hf, List.Subset.refl _, id⟩

theorem State.idlesAfter_memWrite (a : Addr) (v : Byte) : s.IdlesAfter (memWrite a v s) := by
  obtain ⟨hflight, -, hin, -⟩ := memWrite_frame s a v
  exact ⟨hflight.trans hf, hin ▸ List.Subset.refl _, memWrite_ovr⟩

theorem hostRead_avoidsHazard (a : Addr) : s.AvoidsHazard (hostRead a s) := by
  cases hread : memRead s a with
  | error f =>
    obtain ⟨x, rfl⟩ := memRead_error hread
    rw [hostRead_of_error hread]
    exact s.avoidsHazard_unwrittenRead x
  | ok v =>
    rw [hostRead_of_ok hread]
    exact (State.idlesAfter_respond hf v).avoidsHazard

theorem heldInput_avoidsHazard (x : Input) : s.AvoidsHazard (heldInput x s) := by
  cases x with
  | read a => exact (State.idlesAfter_respond hf 0).avoidsHazard
  | write | issue | complete => exact (State.idlesAfter_self hf).avoidsHazard
  | rst level => exact (State.idlesAfter_setRst hf level).avoidsHazard
  | powerOn => exact s.idlesAfter_hardReset.avoidsHazard

/-- R345: `issue` alone leaves a command of an idle block in flight, and the host that waits has none to come. -/
theorem idleInput_avoidsHazard {x : Input} (hx : x.overlaps = false) : s.AvoidsHazard (idleInput x s) := by
  cases x with
  | read a => exact hostRead_avoidsHazard hf a
  | write a v =>
    by_cases ha : a = CMD
    · rw [ha, idleInput_write_cmd]
      exact runCommand_avoidsHazard v s
    · rw [idleInput, if_neg ha]
      exact (State.idlesAfter_memWrite hf a v).avoidsHazard
  | issue v => cases hx
  | complete => exact (State.idlesAfter_self hf).avoidsHazard
  | rst level => exact (State.idlesAfter_setRst hf level).avoidsHazard
  | powerOn => exact s.idlesAfter_hardReset.avoidsHazard

end

/-- Taking the oldest input brings none and leaves OVR as it is. -/
theorem State.AvoidsHazard.of_take {s : State} {o : Outcome} {x : Input} {rest : List Input}
    (hin : s.inputs = x :: rest) (h : (s.take rest).AvoidsHazard o) : s.AvoidsHazard o := by
  obtain ⟨hfault, hnext⟩ := h
  refine ⟨hfault, fun t ht => ?_⟩
  obtain ⟨hidle, hsub, hovr⟩ := hnext t ht
  exact ⟨hidle, hin ▸ List.subset_cons_of_subset x hsub, hovr⟩

/-- R345, R347: the block of a host that waits is idle, with RST high or low, so its steps are never those of BUSY = 1. -/
theorem step_avoidsHazard {s : State} (h : s.hostWaits) : s.AvoidsHazard (step s) := by
  obtain ⟨hf, hwait⟩ := h
  rcases step_cases s with ⟨-, ⟨-, he⟩ | ⟨x, rest, hin, he⟩⟩ | ⟨-, -, ⟨-, he⟩ | ⟨x, rest, hin, he⟩⟩ | ⟨i, -, hbusy, -⟩
  · rw [he]
    exact (State.idlesAfter_self hf).avoidsHazard
  · rw [he]
    exact .of_take hin (heldInput_avoidsHazard (s := s.take rest) hf x)
  · rw [he]
    exact (State.idlesAfter_self hf).avoidsHazard
  · rw [he]
    exact .of_take hin (idleInput_avoidsHazard (s := s.take rest) hf (hwait x (hin ▸ List.mem_cons_self)))
  · cases hf.symm.trans hbusy

/-- Settles O56: a step that avoids the hazard leaves an idle block, and no input to come that the host did not have. -/
theorem waitingHostMeetsNoHazard : Obligations.WaitingHostMeetsNoHazard := by
  intro s hs
  obtain ⟨hfault, hnext⟩ := step_avoidsHazard hs
  obtain ⟨-, hwait⟩ := hs
  refine ⟨hfault, fun t ht => ?_⟩
  obtain ⟨hidle, hsub, hovr⟩ := hnext t ht
  exact ⟨⟨hidle, fun x hx => hwait x (hsub hx)⟩, hovr⟩

/-! ### A command in flight (R346, R347, R349) -/

/-- R349, as log entry 8 reads it. -/
theorem step_of_busy_no_input {s : State} {i : Instr} (hrst : s.rst = false) (hf : s.inFlight = some i)
    (hin : s.inputs = []) : step s = exec i s := by
  unfold step hostStep
  rw [hin]
  simp [noInput, hrst, hf]

/-- Settles O5: `noInput` and the input `complete` both run the command in flight. -/
theorem engineCompletesCommandInFlight : Obligations.EngineCompletesCommandInFlight := by
  intro s i hrst hf
  refine ⟨step_of_busy_no_input hrst hf, fun rest hin => ?_⟩
  rw [step_of_busy hrst hf hin]
  rfl

theorem busyInput_write_cmd (i : Instr) (v : Byte) (s : State) : busyInput i (.write CMD v) s = .next s.overrun := by
  unfold busyInput
  exact if_pos rfl

/-- Settles O6: either CMD write of a busy block is `State.overrun`. -/
theorem cmdWriteWhileBusyIsDropped : Obligations.CmdWriteWhileBusyIsDropped := by
  intro s i v rest hrst hf hin
  rcases hin with hin | hin
  · rw [step_of_busy hrst hf hin]
    exact busyInput_write_cmd i v _
  · rw [step_of_busy hrst hf hin]
    rfl

/-- Settles O7: a read of STATUS and a write of CMD are the accesses of a busy block that `busyInput` lets through. -/
theorem otherAccessWhileBusyFaults : Obligations.OtherAccessWhileBusyFaults := by
  intro s i a v rest hrst hf
  refine ⟨fun ha hin => ?_, fun ha hin => ?_⟩
  · rw [step_of_busy hrst hf hin]
    exact if_neg ha
  · rw [step_of_busy hrst hf hin]
    exact if_neg ha

/-! ### The resets (R340-R343) -/

/-- Settles O9: RST high and power-on do the same with RST high, with the block idle and with a command in flight. -/
theorem hardResetFromAnyState : Obligations.HardResetFromAnyState := by
  intro s rest
  refine ⟨fun hin => ?_, fun hin => ?_⟩
  · rw [step_of_input hin, onInput_rst]
    rfl
  · rw [step_of_input hin, onInput_powerOn]
    rfl

theorem step_of_held {s : State} {x : Input} {rest : List Input} (hrst : s.rst = true) (hin : s.inputs = x :: rest) :
    step s = heldInput x (s.take rest) := by
  rw [step_of_input hin, onInput, State.take_rst, if_pos hrst]

/-- Settles O11: the step is `heldInput`, which answers a read, drops a write and a completion, and takes the level. -/
theorem heldInResetIgnoresAccesses : Obligations.HeldInResetIgnoresAccesses := by
  intro s a v rest hrst
  refine ⟨fun hin => ?_, fun hin => ?_, fun hin => ?_⟩
  · rw [step_of_held hrst hin]
    rfl
  · rcases hin with hin | hin | hin <;> rw [step_of_held hrst hin] <;> rfl
  · rw [step_of_held hrst hin]
    rfl

/-- Settles O58: the reset state is the block's own part of a hard reset. -/
theorem resetMeetsInvariant : Obligations.ResetMeetsInvariant := inv_of_reset rfl rfl rfl

end Sys2Proof.Machine
